-- ==== Sys2Proof/Word.lean ====
section
/-! DEFINITION. The storage element (00_scope.md R9: the datapath is 64 bits wide), a key byte, and the three word
widths of the family (R3, R4). -/

namespace Sys2Proof

/-- One 64-bit storage element: a host register, an S or L entry, a working word (R9). -/
abbrev Word := BitVec 64

/-- One byte of a key (R5, R34). -/
abbrev Byte := BitVec 8

/-- The word widths `w` of R3 and R4: 16, 32 and 64; "others are invalid". -/
inductive Width where
  | w16
  | w32
  | w64
  deriving DecidableEq, Repr

end Sys2Proof
end

