-- ==== Sys2Proof/Config.lean ====
section
/-! DEFINITION. What is fixed for one instance of the engine: the named constants of 00_scope.md and the bounds of its
one parameter, R_MAX (R6). R_MAX itself stands in State (DESIGN CHOICE, log 1): every statement then holds for every
instance. -/

namespace Sys2Proof.Config

/-- KEY_MAX of R5: the longest key, in bytes. -/
def keyMax : Nat := 255

/-- LMAX of R8: the number of entries of the L array. -/
def lMax : Nat := 128

/-- The number of 64-bit KEY registers, 10_state.md R34. -/
def keyRegs : Nat := 32

/-- SMAX of R8: the number of entries of the S table of an instance with this R_MAX. -/
def sMax (rMax : BitVec 16) : Nat := 2 * rMax.toNat + 2

/-- The default value of R_MAX (R6). -/
def rMaxDefault : BitVec 16 := 255

/-- The value of ID, 10_state.md R22. -/
def idWord : Word := 0x0000000700524335

end Sys2Proof.Config
end

