-- ==== Sys2Proof/Syntax.lean ====
section
/-! DEFINITION. The instructions of the engine: the five command words of 30_encoding.md R91, one constructor per row of
spec/opcode_table.json. -/

namespace Sys2Proof

/-- A command (30_encoding.md R91). Commands carry no operand fields: their operands come from registers, read at
acceptance (R93). -/
inductive Instr where
  /-- The word 0, 43_control.md R170. -/
  | nop
  /-- Build a context from CFG and KEY, 41_key_schedule.md R130. -/
  | build
  /-- Encrypt the block A_IN, B_IN under the context, 42_block_cipher.md R152. -/
  | encrypt
  /-- Decrypt the block A_IN, B_IN under the context, 42_block_cipher.md R156. -/
  | decrypt
  /-- Drop the context and all key material, 43_control.md R171. -/
  | clear
  deriving DecidableEq, Repr

end Sys2Proof
end

