-- ==== Sys2Proof/WellFormed.lean ====
section
/-! DEFINITION. Well-formedness. A command has no operand (30_encoding.md R93), so every term of `Instr` is well formed;
what a wrong value can stand in is the instance's parameter (00_scope.md R6). -/

namespace Sys2Proof

/-- A command carries no operand field that could be out of range (30_encoding.md R93): no check is needed. -/
def Instr.wellFormed : Instr → Bool
  | .nop | .build | .encrypt | .decrypt | .clear => true

/-- The bounds of the parameter R_MAX, 00_scope.md R6: `32 ≤ R_MAX ≤ 65535` (the upper one holds of any 16-bit value). -/
def Config.wellFormed (rMax : BitVec 16) : Bool := decide (32 ≤ rMax.toNat)

end Sys2Proof
end

