-- ==== Sys2Proof/Decode.lean ====
section
/-! DEFINITION. Decoding of a command word (30_encoding.md R90 to R92, R98), total on every 64-bit word and on every list
of bytes, rejecting by name; then the encoder, written from the same rules. -/

namespace Sys2Proof

/-- Why a command word names no command. -/
inductive DecodeReject where
  /-- RES, bits [63:4], is not zero (30_encoding.md R90, R98). -/
  | reservedBits
  /-- OP is 5 to 15 (R91, R98). -/
  | reservedOpcode
  /-- Fewer than the eight bytes of a command word. -/
  | truncated
  deriving DecidableEq, Repr

/-- OP, bits [3:0] of a command word (30_encoding.md R90). -/
def opField (cw : BitVec 64) : BitVec 4 := cw.extractLsb' 0 4

/-- RES, bits [63:4] of a command word (30_encoding.md R90). -/
def resField (cw : BitVec 64) : BitVec 60 := cw.extractLsb' 4 60

/-- The command a word stands for (30_encoding.md R91, R98). -/
def decode (cw : BitVec 64) : Except DecodeReject Instr :=
  if resField cw = 0 then
    match (opField cw).toNat with
    | 0 => .ok .nop
    | 1 => .ok .build
    | 2 => .ok .encrypt
    | 3 => .ok .decrypt
    | 4 => .ok .clear
    | _ => .error .reservedOpcode
  else .error .reservedBits

/-- A 64-bit value from its byte lanes, lane 0 first (20_memory.md R70). -/
def wordOfLanes (b0 b1 b2 b3 b4 b5 b6 b7 : Byte) : BitVec 64 :=
  b7 ++ (b6 ++ (b5 ++ (b4 ++ (b3 ++ (b2 ++ (b1 ++ b0))))))

/-- The command in the first eight bytes of a list, least significant lane first, and the bytes after it. -/
def decodeBytes : List Byte → Except DecodeReject (Instr × List Byte)
  | b0 :: b1 :: b2 :: b3 :: b4 :: b5 :: b6 :: b7 :: rest =>
    (decode (wordOfLanes b0 b1 b2 b3 b4 b5 b6 b7)).map (fun i => (i, rest))
  | _ => .error .truncated

/-- The instruction the decoder reads from a table row's `nbits` bits `w`; every bit above them is 0. A command word has
64 bits, written in one access (30_encoding.md R90), so a number that does not fit in 64 bits is none. -/
def decodeTableWord (nbits w : Nat) : Option Instr :=
  if w % 2 ^ nbits < 2 ^ 64 then (decode (BitVec.ofNat 64 (w % 2 ^ nbits))).toOption else none

/-- The OP value of a command (30_encoding.md R91). -/
def Instr.op : Instr → BitVec 4
  | .nop => 0x0
  | .build => 0x1
  | .encrypt => 0x2
  | .decrypt => 0x3
  | .clear => 0x4

/-- The command word: OP in bits [3:0], RES = 0 (30_encoding.md R90). -/
def encode (i : Instr) : BitVec 64 := (0 : BitVec 60) ++ i.op

end Sys2Proof
end

