-- ==== Sys2Proof/Machine/Datapath.lean ====
section
/-! DEFINITION. The datapath primitives and magic constants of 40_datapath.md. A word of width w stands in the low w bits
of a 64-bit element (00_scope.md R9); each primitive computes on unbounded integers and reduces modulo `2 ^ w`, as the
rules are written. -/

namespace Sys2Proof

/-- w, the number of bits of a word (00_scope.md R4). -/
def Width.bits : Width → Nat
  | .w16 => 16
  | .w32 => 32
  | .w64 => 64

/-- u = w / 8, the number of bytes of a word (00_scope.md R4). -/
def Width.bytes (w : Width) : Nat := w.bits / 8

/-- P_w, 40_datapath.md R119. -/
def Width.magicP : Width → Word
  | .w16 => 0xB7E1
  | .w32 => 0xB7E15163
  | .w64 => 0xB7E151628AED2A6B

/-- Q_w, 40_datapath.md R119. -/
def Width.magicQ : Width → Word
  | .w16 => 0x9E37
  | .w32 => 0x9E3779B9
  | .w64 => 0x9E3779B97F4A7C15

namespace Machine

/-- `zext_64(v[n-1:0])`: the low n bits of a register (30_encoding.md R95, R97). -/
def lowBits (n : Nat) (v : Word) : Word := BitVec.ofNat 64 (v.toNat % 2 ^ n)

/-- `x +w y`, 40_datapath.md R111. -/
def addW (w : Width) (x y : Word) : Word := BitVec.ofNat 64 ((x.toNat + y.toNat) % 2 ^ w.bits)

/-- `x -w y`, 40_datapath.md R112. -/
def subW (w : Width) (x y : Word) : Word := BitVec.ofNat 64 ((x.toNat + 2 ^ w.bits - y.toNat) % 2 ^ w.bits)

/-- `rotl_w(x, n)`, 40_datapath.md R114, with `s = n mod w` and the shifts of unbounded integers. -/
def rotlW (w : Width) (x : Word) (n : Nat) : Word :=
  let s := n % w.bits
  if s = 0 then x else BitVec.ofNat 64 ((x.toNat <<< s + x.toNat >>> (w.bits - s)) % 2 ^ w.bits)

/-- `rotr_w(x, n)`, 40_datapath.md R115. -/
def rotrW (w : Width) (x : Word) (n : Nat) : Word :=
  let s := n % w.bits
  if s = 0 then x else BitVec.ofNat 64 ((x.toNat >>> s + x.toNat <<< (w.bits - s)) % 2 ^ w.bits)

/-- The rotation amount a word supplies: `v mod w`, its low `log2 w` bits (30_encoding.md R96). -/
def rotAmount (w : Width) (v : Word) : Nat := v.toNat % w.bits

end Machine

end Sys2Proof
end

