-- ==== Sys2Proof/Machine/State.lean ====
section
/-! DEFINITION. The machine's state: every register and table of 10_state.md, the two agents seen from outside (what the
Host still has to do, and who moves next), and the last bus response. All plain data. -/

namespace Sys2Proof.Machine

/-- STATUS.ERR, 60_exceptions.md R181. Codes 0x06 to 0xFF are "never recorded", so none stands here (DEDUCED, safe,
log 11). -/
inductive ErrCode where
  /-- 0x00 NONE. -/
  | noError
  /-- 0x01 UNSUPPORTED_WORD_WIDTH (R182). -/
  | unsupportedWordWidth
  /-- 0x02 KEY_TOO_LONG (R183). -/
  | keyTooLong
  /-- 0x03 ROUNDS_UNSUPPORTED (R184). -/
  | roundsUnsupported
  /-- 0x04 NO_CONTEXT (R185). -/
  | noContext
  /-- 0x05 ILLEGAL_COMMAND (R186). -/
  | illegalCommand
  deriving DecidableEq, Repr

/-- PHASE, 10_state.md R35: the micro-step the Engine takes next. The encoding 7 "is never held"
(DEDUCED, safe, log 11). -/
inductive Phase where
  | idle
  | ksInit
  | ksMix
  | encPre
  | encRound
  | decRound
  | decPost
  deriving DecidableEq, Repr

/-- A bus response, 00_scope.md R14. -/
inductive Resp where
  | okay
  | error
  deriving DecidableEq, Repr

/-- What one bus access returned, 20_memory.md R61. -/
inductive BusResult where
  | read (data : Word) (resp : Resp)
  | write (resp : Resp)
  deriving DecidableEq, Repr

/-- One thing the Host does: a bus access (20_memory.md R61), or `POLL` of 30_encoding.md R100, which is one read of
STATUS a step until bit 0 of the value read is 0. -/
inductive HostOp where
  | read (off : BitVec 12) (size : Nat)
  | write (off : BitVec 12) (size : Nat) (data : Word)
  | poll
  deriving DecidableEq, Repr

/-- Whose step is next in the total order of events (20_memory.md R73, 70_reset_and_hazards.md R200, R209). -/
inductive Turn where
  | host
  | engine
  | reset
  deriving DecidableEq, Repr

/-- A table of 64-bit entries by index: S, L or KEY (20_memory.md R60). Only entries that are not zero are listed, in
rising order of index; an unlisted entry reads as 0 (DESIGN CHOICE, log 3 and log 4). -/
abbrev Memory := List (Nat × Word)

structure State where
  /-- R_MAX, the instance's parameter that CAP reports (00_scope.md R6, 10_state.md R23; DESIGN CHOICE, log 1). -/
  rMax : BitVec 16
  /-- CFG.W, CFG.B, CFG.R (10_state.md R24). -/
  cfgW : BitVec 8
  cfgB : BitVec 16
  cfgR : BitVec 32
  /-- STATUS.VALID, DONE, OVERRUN, ERR, LAST_OP (10_state.md R26); BUSY is `phase ≠ idle`. -/
  valid : Bool
  done : Bool
  overrun : Bool
  err : ErrCode
  lastOp : BitVec 4
  /-- CTX.W, CTX.R (10_state.md R27). -/
  ctxW : BitVec 8
  ctxR : BitVec 32
  /-- A_IN, B_IN, A_OUT, B_OUT (10_state.md R28 to R31). -/
  aIn : Word
  bIn : Word
  aOut : Word
  bOut : Word
  /-- S_INDEX.INDEX (10_state.md R32). -/
  sIndex : BitVec 32
  /-- KEY[0..31] (10_state.md R34). -/
  key : Memory
  /-- PHASE (10_state.md R35) and the step counter K (R36). -/
  phase : Phase
  k : BitVec 32
  /-- The latched parameters OPW, OPR, OPT, OPC (10_state.md R37). -/
  opw : BitVec 8
  opr : BitVec 32
  opt : BitVec 32
  opc : BitVec 8
  /-- The working words WA, WB (10_state.md R38) and the mixing indices WI, WJ (R39). -/
  wa : Word
  wb : Word
  wi : BitVec 32
  wj : BitVec 32
  /-- The S table (10_state.md R40) and the L array (R41). -/
  sTab : Memory
  lArr : Memory
  /-- The Host's accesses still to be made, first one first (the model's own; DESIGN CHOICE, log 5). -/
  program : List HostOp
  /-- Whose turn the next steps are, first one first (the model's own; DESIGN CHOICE, log 5). -/
  schedule : List Turn
  /-- What the last bus access returned (the model's own; DESIGN CHOICE, log 6). -/
  busResult : Option BusResult
  deriving DecidableEq, Repr

/-- Why the machine stops with a fault. The spec's engine never does (60_exceptions.md R180): both are raised only in
states that no run from reset reaches, and both are safe (DESIGN CHOICE, log 8). -/
inductive Fault where
  /-- Raised by a micro-step whose latched OPW is none of 16, 32 and 64. Safe: it stops where the spec says nothing. -/
  | widthNotSupported
  /-- Raised by a micro-step whose index lies outside the S table (SMAX entries) or the L array (LMAX entries). Safe. -/
  | noSuchEntry
  deriving DecidableEq, Repr

/-- Why an instruction has no meaning. -/
inductive Refusal where
  /-- Raised by `exec` alone, for an instruction that has no meaning yet. Safe: the machine stops. -/
  | notModelled (mnemonic : String)
  deriving DecidableEq, Repr

/-- The state of an instance with this R_MAX right after reset, with nothing for the Host to do: every host-visible
register as 10_state.md R21 and 70_reset_and_hazards.md R200 say. The registers these leave unspecified are 0 (DESIGN
CHOICE, unsafe, log 2) and the S and L entries read 0 (DESIGN CHOICE, unsafe, log 3). -/
def State.resetWith (rMax : BitVec 16) : State where
  rMax := rMax
  cfgW := 32
  cfgB := 16
  cfgR := 12
  valid := false
  done := false
  overrun := false
  err := .noError
  lastOp := 0
  ctxW := 0
  ctxR := 0
  aIn := 0
  bIn := 0
  aOut := 0
  bOut := 0
  sIndex := 0
  key := []
  phase := .idle
  k := 0
  opw := 0
  opr := 0
  opt := 0
  opc := 0
  wa := 0
  wb := 0
  wi := 0
  wj := 0
  sTab := []
  lArr := []
  program := []
  schedule := []
  busResult := none

/-- The machine right after reset, with the default R_MAX of 00_scope.md R6 (DESIGN CHOICE, log 1). -/
def State.reset : State := State.resetWith Config.rMaxDefault

end Sys2Proof.Machine
end

