-- ==== Sys2Proof/Machine/Flags.lean ====
section
/-! DEFINITION. The engine has no arithmetic flags (10_state.md R45); its only status bits are the fields of STATUS
(R26). This file says what the fields encode and what acceptance and completion do to them. -/

namespace Sys2Proof.Machine

/-- The number of an error code, 60_exceptions.md R181. -/
def ErrCode.code : ErrCode → BitVec 8
  | .noError => 0x00
  | .unsupportedWordWidth => 0x01
  | .keyTooLong => 0x02
  | .roundsUnsupported => 0x03
  | .noContext => 0x04
  | .illegalCommand => 0x05

/-- The 3-bit encoding of PHASE, 10_state.md R35. -/
def Phase.code : Phase → BitVec 3
  | .idle => 0
  | .ksInit => 1
  | .ksMix => 2
  | .encPre => 3
  | .encRound => 4
  | .decRound => 5
  | .decPost => 6

/-- STATUS.BUSY, "defined as `PHASE != IDLE`" (10_state.md R26). -/
def State.busy (s : State) : Bool := decide (s.phase ≠ .idle)

/-- The STATUS word, 10_state.md R26: LAST_OP [19:16], ERR [15:8], OVERRUN [3], DONE [2], VALID [1], BUSY [0]. -/
def State.statusWord (s : State) : Word :=
  (0 : BitVec 44) ++ (s.lastOp ++ (s.err.code ++ ((0 : BitVec 4) ++
    (BitVec.ofBool s.overrun ++ (BitVec.ofBool s.done ++ (BitVec.ofBool s.valid ++ BitVec.ofBool s.busy))))))

/-- What the acceptance of a command with this OP writes to STATUS besides VALID and BUSY (41_key_schedule.md R131,
42_block_cipher.md R153, R157): DONE, ERR and OVERRUN cleared, LAST_OP set. This is also what ends an earlier error: there
is no return instruction (60_exceptions.md R191). -/
def State.acceptStatus (op : BitVec 4) (s : State) : State :=
  { s with done := false, err := .noError, overrun := false, lastOp := op }

/-- The end of a command: DONE set, PHASE back to IDLE, so that BUSY reads 0 (41_key_schedule.md R136,
42_block_cipher.md R160). ERR, LAST_OP and OVERRUN stay (R136, 43_control.md R173). -/
def State.finish (s : State) : State := { s with done := true, phase := .idle }

end Sys2Proof.Machine
end

