-- ==== Sys2Proof/Machine/Operands.lean ====
section
/-! DEFINITION. Operand assembly (30_encoding.md section 2) and the register words the Host sees (10_state.md section 2):
tables by index, key bytes and their packing into key words, CFG fields, and the derived sizes t and c. -/

namespace Sys2Proof.Machine

/-- The entry at an index; an unlisted entry is 0 (DESIGN CHOICE, log 3). -/
def Memory.read : Memory → Nat → Word
  | [], _ => 0
  | (b, v) :: m, a => if a = b then v else Memory.read m a

/-- `M[a] <- v`, in the canonical form: indices rising, no entry 0. -/
def Memory.write : Memory → Nat → Word → Memory
  | [], a, v => if v = 0 then [] else [(a, v)]
  | (b, u) :: m, a, v =>
    if a < b then (if v = 0 then (b, u) :: m else (a, v) :: (b, u) :: m)
    else if a = b then (if v = 0 then m else (a, v) :: m)
    else (b, u) :: Memory.write m a v

/-- `M[a..] <- vs`, one entry after another. -/
def Memory.writeFrom (m : Memory) (a : Nat) : List Word → Memory
  | [] => m
  | v :: vs => Memory.writeFrom (m.write a v) (a + 1) vs

/-- Every entry 0. -/
def Memory.zero : Memory := []

/-- The canonical form: every listed index is above the one before it, and no listed entry is 0. -/
def Memory.wf : Memory → Bool
  | [] => true
  | (a, v) :: m => decide (v ≠ 0) && (m.all (fun c => decide (a < c.1)) && Memory.wf m)

/-- Every listed index lies below n: the table has n entries. -/
def Memory.within (n : Nat) (m : Memory) : Bool := m.all (fun c => decide (c.1 < n))

/-- The width a CFG.W, CTX.W or OPW field selects (10_state.md R24); every other value selects none. -/
def Width.ofField (v : BitVec 8) : Option Width :=
  if v = 16 then some .w16 else if v = 32 then some .w32 else if v = 64 then some .w64 else none

/-- t = 2r + 2, the length of the expanded table (00_scope.md R7). -/
def tableLength (r : Nat) : Nat := 2 * r + 2

/-- c, the number of key words: `max(1, ceil(b / u))` (00_scope.md R7, 41_key_schedule.md R132). -/
def wordCount (w : Width) (b : Nat) : Nat := max 1 ((b + w.bytes - 1) / w.bytes)

/-- Key byte k of the KEY buffer: `KEY[k div 8][8·(k mod 8)+7 : 8·(k mod 8)]` (10_state.md R34). -/
def keyByte (key : Memory) (k : Nat) : Byte := (key.read (k / 8)).extractLsb' (8 * (k % 8)) 8

/-- The first b bytes of the KEY buffer. -/
def keyBytes (key : Memory) (b : Nat) : List Byte := (List.range b).map (keyByte key)

/-- Bytes as a number, the first byte least significant (20_memory.md R71). -/
def packLE : List Byte → Nat
  | [] => 0
  | b :: bs => b.toNat + 256 * packLE bs

/-- `KeyWords(key, w)`, 41_key_schedule.md R132: word q is the key bytes `q·u .. q·u + u - 1`, little-endian, a missing
byte 0. -/
def keyWords (w : Width) (bytes : List Byte) : List Word :=
  (List.range (wordCount w bytes.length)).map (fun q =>
    BitVec.ofNat 64 (packLE ((bytes.drop (q * w.bytes)).take w.bytes)))

/-- The CFG word: R [63:32], 0 [31:24], B [23:8], W [7:0] (10_state.md R24). -/
def State.cfgWord (s : State) : Word := s.cfgR ++ ((0 : BitVec 8) ++ (s.cfgB ++ s.cfgW))

/-- A write of CFG stores W, B and R as written and discards bits [31:24] (10_state.md R24, 30_encoding.md R94;
DEDUCED, safe, log 12). -/
def State.writeCfg (d : Word) (s : State) : State :=
  { s with cfgW := d.extractLsb' 0 8, cfgB := d.extractLsb' 8 16, cfgR := d.extractLsb' 32 32 }

/-- The CTX word: R [63:32], 0 [31:8], W [7:0] (10_state.md R27). -/
def State.ctxWord (s : State) : Word := s.ctxR ++ ((0 : BitVec 24) ++ s.ctxW)

/-- The CAP word: 0 [63:48], R_MAX [47:32], 0 [31:16], KEY_MAX [15:8], 0 [7:3], and 1 for each of the widths 64, 32, 16
(10_state.md R23). -/
def State.capWord (s : State) : Word :=
  (0 : BitVec 16) ++ (s.rMax ++ ((0 : BitVec 16) ++ (BitVec.ofNat 8 Config.keyMax ++ ((0 : BitVec 5) ++ (7 : BitVec 3)))))

/-- What S_DATA reads: the entry S_INDEX selects when a context is held and the index lies in its table, else 0
(10_state.md R33). -/
def State.sData (s : State) : Word :=
  if s.valid = true ∧ s.sIndex.toNat < tableLength s.ctxR.toNat then s.sTab.read s.sIndex.toNat else 0

end Sys2Proof.Machine
end

