-- ==== Sys2Proof/Machine/Ops.lean ====
section
/-! DEFINITION. The shared operations of the commands: recording an error, dropping a command, the busy test, the width a
micro-step works at, and the bus response. -/

namespace Sys2Proof.Machine

/-- What a meaning and a step answer. -/
abbrev Result := Host.Outcome State Fault Refusal

/-- The next state, where there is one. -/
def nextOf : Result → Option State
  | .next s => some s
  | .fault _ => none
  | .refused _ => none

/-- A further change of the next state, where there is one. -/
def mapNext (f : State → State) : Result → Result
  | .next s => .next (f s)
  | .fault r => .fault r
  | .refused r => .refused r

/-- Error recording, "the counterpart of trap entry": `raise CmdError(code)` (60_exceptions.md R190, 00_scope.md R15).
ERR takes the code, LAST_OP the OP field of the word, DONE is set, OVERRUN cleared; nothing else is saved or changed. -/
def State.recordError (code : ErrCode) (op : BitVec 4) (s : State) : State :=
  { s with err := code, lastOp := op, done := true, overrun := false }

/-- A non-zero word written while BUSY = 1 is dropped: only OVERRUN is set (43_control.md R173). -/
def State.dropCommand (s : State) : State := { s with overrun := true }

/-- The busy test of 30_encoding.md R92, which comes before everything but NOP. -/
def whenIdle (accept : State → State) (s : State) : State := if s.busy then s.dropCommand else accept s

/-- A word that names no command: dropped while BUSY, else ILLEGAL_COMMAND (30_encoding.md R92, 43_control.md R172). -/
def illegalCommand (op : BitVec 4) : State → State := whenIdle (State.recordError .illegalCommand op)

/-- A micro-step at the latched width OPW (10_state.md R37). -/
def atWidth (f : Width → State → Result) (s : State) : Result :=
  match Width.ofField s.opw with
  | some w => f w s
  | none => .fault .widthNotSupported

/-- The response of a bus access (20_memory.md R61). -/
def State.respond (r : BusResult) (s : State) : State := { s with busResult := some r }

end Sys2Proof.Machine
end

