-- ==== Sys2Proof/Machine/BlockCipher.lean ====
section
/-! DEFINITION. The block cipher (42_block_cipher.md): the functions of R150 and R151, the acceptance of ENCRYPT (R153)
and DECRYPT (R157), their micro-steps (R154, R155, R158, R159) and their completion (R160). -/

namespace Sys2Proof.Machine

/-- Round i of Encrypt, two half-rounds, the second with the new A (42_block_cipher.md R150). `tab` is the table. -/
def encryptRound (w : Width) (tab : Nat → Word) (i : Nat) (x : Word × Word) : Word × Word :=
  let a := addW w (rotlW w (x.1 ^^^ x.2) (rotAmount w x.2)) (tab (2 * i))
  let b := addW w (rotlW w (x.2 ^^^ a) (rotAmount w a)) (tab (2 * i + 1))
  (a, b)

/-- Round i of Decrypt, the second half-round with the new B (42_block_cipher.md R151). -/
def decryptRound (w : Width) (tab : Nat → Word) (i : Nat) (x : Word × Word) : Word × Word :=
  let b := rotrW w (subW w x.2 (tab (2 * i + 1))) (rotAmount w x.1) ^^^ x.1
  let a := rotrW w (subW w x.1 (tab (2 * i))) (rotAmount w b) ^^^ b
  (a, b)

/-- The pre-whitening of Encrypt (42_block_cipher.md R150). -/
def whiten (w : Width) (tab : Nat → Word) (x : Word × Word) : Word × Word := (addW w x.1 (tab 0), addW w x.2 (tab 1))

/-- The removal of the whitening in Decrypt (42_block_cipher.md R151). -/
def unwhiten (w : Width) (tab : Nat → Word) (x : Word × Word) : Word × Word := (subW w x.1 (tab 0), subW w x.2 (tab 1))

/-- Rounds 1 to r, ascending. -/
def encryptRounds (w : Width) (tab : Nat → Word) : Nat → Word × Word → Word × Word
  | 0, x => x
  | r + 1, x => encryptRound w tab (r + 1) (encryptRounds w tab r x)

/-- Rounds r to 1, descending. -/
def decryptRounds (w : Width) (tab : Nat → Word) : Nat → Word × Word → Word × Word
  | 0, x => x
  | r + 1, x => decryptRounds w tab r (decryptRound w tab (r + 1) x)

/-- `Encrypt(A, B, S, r)`, 42_block_cipher.md R150. -/
def encryptBlock (w : Width) (tab : Nat → Word) (r : Nat) (x : Word × Word) : Word × Word :=
  encryptRounds w tab r (whiten w tab x)

/-- `Decrypt(A, B, S, r)`, 42_block_cipher.md R151. -/
def decryptBlock (w : Width) (tab : Nat → Word) (r : Nat) (x : Word × Word) : Word × Word :=
  unwhiten w tab (decryptRounds w tab r x)

/-- What the acceptance of ENCRYPT and of DECRYPT share, 42_block_cipher.md R153, R157: the parameters come from CTX, the
words from the low CTX.W bits of A_IN and B_IN (30_encoding.md R95). OPT and OPC stay (DEDUCED, unsafe, log 9). -/
def latchBlock (op : BitVec 4) (s : State) : State :=
  { s.acceptStatus op with
    opw := s.ctxW, opr := s.ctxR, wa := lowBits s.ctxW.toNat s.aIn, wb := lowBits s.ctxW.toNat s.bIn }

/-- A block command needs a context: NO_CONTEXT without one (60_exceptions.md R185). -/
def withContext (op : BitVec 4) (start : State → State) (s : State) : State :=
  if s.valid then start s else s.recordError .noContext op

/-- ENCRYPT of an idle engine, 42_block_cipher.md R153. -/
def acceptEncrypt : State → State := withContext 2 (fun s => { latchBlock 2 s with phase := .encPre })

/-- DECRYPT of an idle engine, 42_block_cipher.md R157. -/
def acceptDecrypt : State → State :=
  withContext 3 (fun s =>
    { latchBlock 3 s with k := s.ctxR, phase := if s.ctxR = 0 then Phase.decPost else Phase.decRound })

/-- ENCRYPT, 42_block_cipher.md R152; dropped while BUSY = 1 (43_control.md R173). -/
def execEncrypt (s : State) : Host.Outcome State Fault Refusal := .next (whenIdle acceptEncrypt s)

/-- DECRYPT, 42_block_cipher.md R156; dropped while BUSY = 1 (43_control.md R173). -/
def execDecrypt (s : State) : Host.Outcome State Fault Refusal := .next (whenIdle acceptDecrypt s)

/-- WA and WB take a pair of words. -/
def State.setWords (x : Word × Word) (s : State) : State := { s with wa := x.1, wb := x.2 }

/-- ENCRYPT or DECRYPT completion, 42_block_cipher.md R160. -/
def finishBlock (s : State) : State :=
  State.finish { s with aOut := lowBits s.opw.toNat s.wa, bOut := lowBits s.opw.toNat s.wb }

/-- The ENC_PRE micro-step, 42_block_cipher.md R154. -/
def encPreStep (w : Width) (s : State) : Result :=
  let s' := { s.setWords (whiten w s.sTab.read (s.wa, s.wb)) with k := 1 }
  .next (if s.opr = 0 then finishBlock s' else { s' with phase := .encRound })

/-- The ENC_ROUND micro-step, 42_block_cipher.md R155. -/
def encRoundStep (w : Width) (s : State) : Result :=
  if 2 * s.k.toNat + 1 < Config.sMax s.rMax then
    let s' := s.setWords (encryptRound w s.sTab.read s.k.toNat (s.wa, s.wb))
    .next (if s.k = s.opr then finishBlock s' else { s' with k := s.k + 1 })
  else .fault .noSuchEntry

/-- The DEC_ROUND micro-step, 42_block_cipher.md R158. -/
def decRoundStep (w : Width) (s : State) : Result :=
  if 2 * s.k.toNat + 1 < Config.sMax s.rMax then
    let s' := s.setWords (decryptRound w s.sTab.read s.k.toNat (s.wa, s.wb))
    .next (if s.k = 1 then { s' with phase := .decPost } else { s' with k := s.k - 1 })
  else .fault .noSuchEntry

/-- The DEC_POST micro-step, 42_block_cipher.md R159. -/
def decPostStep (w : Width) (s : State) : Result :=
  .next (finishBlock (s.setWords (unwhiten w s.sTab.read (s.wa, s.wb))))

end Sys2Proof.Machine
end

