-- ==== Sys2Proof/Machine/Control.lean ====
section
/-! DEFINITION. The control commands NOP and CLEAR (43_control.md). -/

namespace Sys2Proof.Machine

/-- NOP, 43_control.md R170: nothing changes, also while BUSY = 1. -/
def execNop (s : State) : Host.Outcome State Fault Refusal := .next s

/-- CLEAR of an idle engine, 43_control.md R171: the context, the working words and all key material are zeroed. Not
written: CFG, A_IN, B_IN, S_INDEX, PHASE. -/
def acceptClear (s : State) : State :=
  { s with
    sTab := Memory.zero, lArr := Memory.zero, key := Memory.zero
    wa := 0, wb := 0
    ctxW := 0, ctxR := 0, aOut := 0, bOut := 0
    valid := false, done := true, err := .noError, overrun := false, lastOp := 4 }

/-- CLEAR, 43_control.md R171; dropped while BUSY = 1 (R173). -/
def execClear (s : State) : Host.Outcome State Fault Refusal := .next (whenIdle acceptClear s)

end Sys2Proof.Machine
end

