-- ==== Sys2Proof/Machine/KeySchedule.lean ====
section
/-! DEFINITION. The key schedule (41_key_schedule.md): the function of R139, the acceptance of BUILD (R131), its
micro-steps KS_INIT (R133) and KS_MIX (R134), and its completion (R136). -/

namespace Sys2Proof.Machine

/-- Entry k of the initial table: `S[0] = P_w`, `S[k] = S[k-1] +w Q_w` (41_key_schedule.md R139). -/
def initEntry (w : Width) : Nat → Word
  | 0 => w.magicP
  | k + 1 => addW w (initEntry w k) w.magicQ

/-- `A = rotl_w(S[i] +w A +w B, 3)` (41_key_schedule.md R134, 40_datapath.md R120). -/
def mixA (w : Width) (si a b : Word) : Word := rotlW w (addW w (addW w si a) b) 3

/-- `B = rotl_w(L[j] +w A +w B, (A +w B) mod w)`, with the new A (41_key_schedule.md R134, 40_datapath.md R120). -/
def mixB (w : Width) (lj a b : Word) : Word := rotlW w (addW w (addW w lj a) b) (rotAmount w (addW w a b))

/-- The variables of the mixing loop of 41_key_schedule.md R139. -/
structure Mix where
  s : List Word
  l : List Word
  a : Word
  b : Word
  i : Nat
  j : Nat
  deriving DecidableEq, Repr

/-- One pass through the body of the mixing loop, 41_key_schedule.md R139; t and c are the lengths of the two tables. -/
def mixStep (w : Width) (m : Mix) : Mix :=
  let a := mixA w (m.s.getD m.i 0) m.a m.b
  let b := mixB w (m.l.getD m.j 0) a m.b
  { s := m.s.set m.i a, l := m.l.set m.j b, a := a, b := b
    i := (m.i + 1) % m.s.length, j := (m.j + 1) % m.l.length }

/-- n passes through the mixing loop. -/
def mixSteps (w : Width) : Nat → Mix → Mix
  | 0, m => m
  | n + 1, m => mixSteps w n (mixStep w m)

/-- The start of the mixing loop: the initial table, the key words, A = B = 0, i = j = 0 (41_key_schedule.md R135). -/
def mixStart (w : Width) (r : Nat) (key : List Byte) : Mix where
  s := (List.range (tableLength r)).map (initEntry w)
  l := keyWords w key
  a := 0
  b := 0
  i := 0
  j := 0

/-- `3 · max(t, c)`, the length of the mixing loop (41_key_schedule.md R135). -/
def mixCount (t c : Nat) : Nat := 3 * max t c

/-- `KeySchedule(key, w, r)`, 41_key_schedule.md R139: the expanded table, t = 2r + 2 words. -/
def keySchedule (w : Width) (r : Nat) (key : List Byte) : List Word :=
  (mixSteps w (mixCount (tableLength r) (wordCount w key.length)) (mixStart w r key)).s

/-- What an accepted BUILD writes, 41_key_schedule.md R131, for `CFG.W` selecting the width w. The entries of S from t on and
of L from c on keep what they held, where 93_implementation_defined.md U7 allows any value while PHASE is not IDLE (DESIGN
CHOICE, unsafe, log 16). -/
def startBuild (w : Width) (s : State) : State :=
  { s.acceptStatus 1 with
    opw := s.cfgW, opr := s.cfgR
    opt := BitVec.ofNat 32 (tableLength s.cfgR.toNat)
    opc := BitVec.ofNat 8 (wordCount w s.cfgB.toNat)
    lArr := s.lArr.writeFrom 0 (keyWords w (keyBytes s.key s.cfgB.toNat))
    valid := false, ctxW := 0, ctxR := 0
    k := 0, phase := .ksInit }

/-- BUILD of an idle engine, 41_key_schedule.md R131: the three checks, in the order of 60_exceptions.md R189, come before
any write. -/
def acceptBuild (s : State) : State :=
  match Width.ofField s.cfgW with
  | none => s.recordError .unsupportedWordWidth 1
  | some w =>
    if Config.keyMax < s.cfgB.toNat then s.recordError .keyTooLong 1
    else if s.rMax.toNat < s.cfgR.toNat then s.recordError .roundsUnsupported 1
    else startBuild w s

/-- BUILD, 41_key_schedule.md R130; dropped while BUSY = 1 (43_control.md R173). -/
def execBuild (s : State) : Host.Outcome State Fault Refusal := .next (whenIdle acceptBuild s)

/-- The start of the mixing, in the last KS_INIT step (41_key_schedule.md R133, R135). -/
def startMix (s : State) : State := { s with wa := 0, wb := 0, wi := 0, wj := 0, k := 0, phase := .ksMix }

/-- The KS_INIT micro-step, 41_key_schedule.md R133. It writes entry K of S alone (DESIGN CHOICE for the entries from t on,
unsafe, log 16). -/
def ksInitStep (w : Width) (s : State) : Result :=
  if s.k.toNat < Config.sMax s.rMax then
    let v := if s.k = 0 then w.magicP else addW w (s.sTab.read (s.k.toNat - 1)) w.magicQ
    let s' := { s with sTab := s.sTab.write s.k.toNat v, k := s.k + 1 }
    .next (if s'.k = s'.opt then startMix s' else s')
  else .fault .noSuchEntry

/-- BUILD completion, 41_key_schedule.md R136: the context is the latched width and round count with the table in S; L
is zeroed. -/
def finishBuild (s : State) : State :=
  State.finish { s with ctxW := s.opw, ctxR := s.opr, valid := true, lArr := Memory.zero }

/-- The KS_MIX micro-step, 41_key_schedule.md R134. It writes entry WI of S and entry WJ of L alone, until completion
(DESIGN CHOICE for the entries of S from t on and of L from c on, unsafe, log 16). -/
def ksMixStep (w : Width) (s : State) : Result :=
  if s.wi.toNat < Config.sMax s.rMax ∧ s.wj.toNat < Config.lMax then
    let a := mixA w (s.sTab.read s.wi.toNat) s.wa s.wb
    let b := mixB w (s.lArr.read s.wj.toNat) a s.wb
    let s' := { s with
      wa := a, sTab := s.sTab.write s.wi.toNat a
      wb := b, lArr := s.lArr.write s.wj.toNat b
      wi := BitVec.ofNat 32 ((s.wi.toNat + 1) % s.opt.toNat)
      wj := BitVec.ofNat 32 ((s.wj.toNat + 1) % s.opc.toNat)
      k := s.k + 1 }
    .next (if s'.k.toNat = mixCount s'.opt.toNat s'.opc.toNat then finishBuild s' else s')
  else .fault .noSuchEntry

end Sys2Proof.Machine
end

