-- ==== Sys2Proof/Machine/Dispatch.lean ====
section
/-! DEFINITION. One arm per command: its Host step (30_encoding.md R92). -/

namespace Sys2Proof.Machine

/-- What a command word does in the Host step that writes it to CMD; its micro-steps are the Engine's. -/
def exec (i : Instr) (s : State) : Host.Outcome State Fault Refusal :=
  match i with
  | .nop => Sys2Proof.Machine.execNop s
  | .build => Sys2Proof.Machine.execBuild s
  | .encrypt => Sys2Proof.Machine.execEncrypt s
  | .decrypt => Sys2Proof.Machine.execDecrypt s
  | .clear => Sys2Proof.Machine.execClear s

end Sys2Proof.Machine
end

