-- ==== Sys2Proof/Machine/Bus.lean ====
section
/-! DEFINITION. The Host agent's bus accesses (20_memory.md section 2) over the register map of 10_state.md R21, and the
acceptance of a word written to CMD (30_encoding.md R92). -/

namespace Sys2Proof.Machine

/-- The host-visible registers, 10_state.md R21. -/
inductive Reg where
  | id
  | cap
  | cfg
  | cmd
  | status
  | ctx
  | aIn
  | bIn
  | aOut
  | bOut
  | sIndex
  | sData
  | key (q : Fin 32)
  deriving DecidableEq, Repr

/-- A register's offset in the window, 10_state.md R21. -/
def Reg.offset : Reg → Nat
  | .id => 0x000
  | .cap => 0x008
  | .cfg => 0x010
  | .cmd => 0x018
  | .status => 0x020
  | .ctx => 0x028
  | .aIn => 0x030
  | .bIn => 0x038
  | .aOut => 0x040
  | .bOut => 0x048
  | .sIndex => 0x050
  | .sData => 0x058
  | .key q => 0x100 + 8 * q.val

/-- Every register of the map, 10_state.md R21. -/
def Reg.all : List Reg :=
  [.id, .cap, .cfg, .cmd, .status, .ctx, .aIn, .bIn, .aOut, .bOut, .sIndex, .sData] ++ (List.finRange 32).map Reg.key

/-- The register at an offset; none at a reserved offset (20_memory.md R65). -/
def Reg.ofOffset (off : BitVec 12) : Option Reg := Reg.all.find? (fun r => decide (r.offset = off.toNat))

/-- What a read of a register returns, with reserved fields 0 (20_memory.md R64, R67); CMD reads 0 (10_state.md R25). -/
def readReg (r : Reg) (s : State) : Word :=
  match r with
  | .id => Config.idWord
  | .cap => s.capWord
  | .cfg => s.cfgWord
  | .cmd => 0
  | .status => s.statusWord
  | .ctx => s.ctxWord
  | .aIn => s.aIn
  | .bIn => s.bIn
  | .aOut => s.aOut
  | .bOut => s.bOut
  | .sIndex => s.sIndex.setWidth 64
  | .sData => s.sData
  | .key q => s.key.read q.val

/-- A 64-bit word presented to the acceptance logic, 30_encoding.md R92: a command, or a word that names none. -/
def acceptWord (cw : Word) (s : State) : Result :=
  match decode cw with
  | .ok i => exec i s
  | .error _ => .next (illegalCommand (opField cw) s)

/-- A write of a register: a read-write register stores its writable fields (20_memory.md R64), a read-only one ignores
the write (R66), and CMD presents the word to the acceptance logic in the same Host step (10_state.md R25). -/
def writeReg (r : Reg) (d : Word) (s : State) : Result :=
  match r with
  | .cfg => .next (s.writeCfg d)
  | .cmd => acceptWord d s
  | .aIn => .next { s with aIn := d }
  | .bIn => .next { s with bIn := d }
  | .sIndex => .next { s with sIndex := d.extractLsb' 0 32 }
  | .key q => .next { s with key := s.key.write q.val d }
  | .id | .cap | .status | .ctx | .aOut | .bOut | .sData => .next s

/-- The one supported access: 8 bytes at an offset that is a multiple of 8 (20_memory.md R62, R63; DEDUCED,
safe, log 13). -/
def supported (off : BitVec 12) (size : Nat) : Bool := decide (size = 8 ∧ off.toNat % 8 = 0)

/-- What `BusRead(off, size)` returns: (data, resp) (20_memory.md R62 to R65). -/
def busReadResult (off : BitVec 12) (size : Nat) (s : State) : Word × Resp :=
  if supported off size then
    match Reg.ofOffset off with
    | some r => (readReg r s, .okay)
    | none => (0, .okay)
  else (0, .error)

/-- `BusRead(off, size)`, 20_memory.md R61. It changes no state of the engine (R68). -/
def busRead (off : BitVec 12) (size : Nat) (s : State) : State :=
  s.respond (.read (busReadResult off size s).1 (busReadResult off size s).2)

/-- `BusWrite(off, size, data)`, 20_memory.md R61 to R66. -/
def busWrite (off : BitVec 12) (size : Nat) (d : Word) (s : State) : Result :=
  if supported off size then
    match Reg.ofOffset off with
    | some r => mapNext (State.respond (.write .okay)) (writeReg r d s)
    | none => .next (s.respond (.write .okay))
  else .next (s.respond (.write .error))

/-- One Host step: the access at the head of its program. `POLL` reads STATUS and stays at the head while bit 0 of the
value read is 1 (30_encoding.md R100). A Host turn with nothing to do changes nothing (DESIGN CHOICE, log 5). -/
def hostStep (s : State) : Result :=
  match s.program with
  | [] => .next s
  | .read off size :: rest => .next (busRead off size { s with program := rest })
  | .write off size d :: rest => busWrite off size d { s with program := rest }
  | .poll :: rest =>
    .next (busRead 0x020 8 (if (busReadResult 0x020 8 s).1.getLsbD 0 then s else { s with program := rest }))

end Sys2Proof.Machine
end

