-- ==== Sys2Proof/Machine/Engine.lean ====
section
/-! DEFINITION. The Engine agent: one micro-step of the command in progress (10_state.md R20, R35), and n of them. -/

namespace Sys2Proof.Machine

/-- One Engine step. "The Engine has a step only when PHASE != IDLE" (10_state.md R35): an Engine turn of an idle engine
changes nothing. -/
def microStep (s : State) : Result :=
  match s.phase with
  | .idle => .next s
  | .ksInit => atWidth ksInitStep s
  | .ksMix => atWidth ksMixStep s
  | .encPre => atWidth encPreStep s
  | .encRound => atWidth encRoundStep s
  | .decRound => atWidth decRoundStep s
  | .decPost => atWidth decPostStep s

/-- n Engine steps, with no Host access between them. -/
def microSteps : Nat → State → Result
  | 0, s => .next s
  | n + 1, s =>
    match microStep s with
    | .next t => microSteps n t
    | .fault r => .fault r
    | .refused r => .refused r

/-- How many Engine steps the command in progress still takes, 70_reset_and_hazards.md R210. -/
def State.remaining (s : State) : Nat :=
  match s.phase with
  | .idle => 0
  | .ksInit => (s.opt.toNat - s.k.toNat) + mixCount s.opt.toNat s.opc.toNat
  | .ksMix => mixCount s.opt.toNat s.opc.toNat - s.k.toNat
  | .encPre => 1 + s.opr.toNat
  | .encRound => s.opr.toNat - s.k.toNat + 1
  | .decRound => s.k.toNat + 1
  | .decPost => 1

end Sys2Proof.Machine
end

