-- ==== Sys2Proof/Machine/Turns.lean ====
section
/-! DEFINITION. The total order of events (20_memory.md R73, 70_reset_and_hazards.md R209): whose turn it is, and what
each agent does with it; the reset input (R200). -/

namespace Sys2Proof.Machine

/-- The reset input, one step in any state (70_reset_and_hazards.md R200). What stands outside the engine stays: the
instance's R_MAX, what the Host still has to do, the schedule, and the last response (DESIGN CHOICE,
unsafe, log 10). -/
def resetInput (s : State) : State :=
  { State.resetWith s.rMax with program := s.program, schedule := s.schedule, busResult := s.busResult }

/-- Whose turn it is when the schedule has run out: the Engine's while a command is in progress, which is the fairness of
70_reset_and_hazards.md R209, else the Host's (DESIGN CHOICE, log 5). -/
def State.defaultTurn (s : State) : Turn := if s.busy then .engine else .host

/-- What the agent whose turn it is does. -/
def takeTurn (t : Turn) (s : State) : Result :=
  match t with
  | .host => hostStep s
  | .engine => microStep s
  | .reset => .next (resetInput s)

/-- One event: the turn at the head of the schedule, or the default one. -/
def nextEvent (s : State) : Result :=
  match s.schedule with
  | t :: rest => takeTurn t { s with schedule := rest }
  | [] => takeTurn s.defaultTurn s

end Sys2Proof.Machine
end

