-- ==== Sys2Proof/Machine/Step.lean ====
section
/-! DEFINITION. One step of the machine: one event of the total order (20_memory.md R73). -/

namespace Sys2Proof.Machine

/-- One step: one Host access, one Engine micro-step, or a reset (20_memory.md R73, 70_reset_and_hazards.md R200). -/
def step (s : State) : Host.Outcome State Fault Refusal := nextEvent s

/-- The state in which the very next step is the Host's write of this command word to CMD, which is how an instruction
comes to run (30_encoding.md R90; DESIGN CHOICE, safe, log 7): the write stands at the head of the Host's program and the
next turn is the Host's. A command word has 64 bits; the bits above `nbits` are 0. -/
def State.withFetchWord (s : State) (nbits w : Nat) : State :=
  { s with
    program := HostOp.write 0x018 8 (BitVec.ofNat 64 (w % 2 ^ nbits)) :: s.program
    schedule := Turn.host :: s.schedule }

end Sys2Proof.Machine
end

