-- ==== Sys2Proof/Machine/HostProgram.lean ====
section
/-! DEFINITION. The host-program notation of 30_encoding.md section 4: its lines and pseudo-instructions, each as the bus
accesses it stands for, and the byte convention of a block (20_memory.md R72). -/

namespace Sys2Proof.Machine

/-- One line of a host program, 30_encoding.md R99 and R100. -/
inductive HostLine where
  | wr (r : Reg) (imm : Word)
  | rd (r : Reg)
  | cmd (i : Instr)
  | setcfg (w r b : Nat)
  | loadkey (bytes : List Byte)
  | poll
  | run (i : Instr)
  deriving DecidableEq, Repr

/-- SETCFG takes values that fit CFG's fields (10_state.md R24), LOADKEY a key that fits the buffer (R34). -/
def HostLine.wellFormed : HostLine → Bool
  | .wr _ _ | .rd _ | .cmd _ | .poll | .run _ => true
  | .setcfg w r b => decide (w < 2 ^ 8 ∧ r < 2 ^ 32 ∧ b < 2 ^ 16)
  | .loadkey bytes => decide (bytes.length ≤ 256)

/-- `WR`, 30_encoding.md R99. -/
def writeOp (r : Reg) (imm : Word) : HostOp := .write (BitVec.ofNat 12 r.offset) 8 imm

/-- `RD`, 30_encoding.md R99. -/
def readOp (r : Reg) : HostOp := .read (BitVec.ofNat 12 r.offset) 8

/-- The value SETCFG writes: `(r << 32) + (b << 8) + w` (30_encoding.md R100). -/
def setcfgWord (w r b : Nat) : Word := BitVec.ofNat 64 (r <<< 32 + b <<< 8 + w)

/-- The word LOADKEY writes to KEY[q]: `Σ_{m<8, 8q+m<b} k(8q+m)·2^(8m)` (30_encoding.md R100). -/
def loadkeyWord (bytes : List Byte) (q : Nat) : Word := BitVec.ofNat 64 (packLE ((bytes.drop (8 * q)).take 8))

/-- LOADKEY writes KEY[0 .. ceil(b/8) - 1] (30_encoding.md R100). -/
def loadkeyOps (bytes : List Byte) : List HostOp :=
  (List.range ((bytes.length + 7) / 8)).map (fun q => writeOp (.key (Fin.ofNat 32 q)) (loadkeyWord bytes q))

/-- The bus accesses a line stands for, 30_encoding.md R99 and R100. -/
def HostLine.expand : HostLine → List HostOp
  | .wr r imm => [writeOp r imm]
  | .rd r => [readOp r]
  | .cmd i => [writeOp .cmd (encode i)]
  | .setcfg w r b => [writeOp .cfg (setcfgWord w r b)]
  | .loadkey bytes => loadkeyOps bytes
  | .poll => [.poll]
  | .run i => [writeOp .cmd (encode i), .poll]

/-- A host program as the Host's accesses. -/
def assemble (lines : List HostLine) : List HostOp := lines.flatMap HostLine.expand

/-- The words of a block's bytes, 20_memory.md R72 (PRESUMED, log 15): the first u bytes are A, the next u are B, each
little-endian. -/
def blockWords (w : Width) (p : List Byte) : Word × Word :=
  (BitVec.ofNat 64 (packLE (p.take w.bytes)), BitVec.ofNat 64 (packLE ((p.drop w.bytes).take w.bytes)))

/-- The bytes of a word, the least significant first. -/
def wordBytes (w : Width) (x : Word) : List Byte := (List.range w.bytes).map (fun m => x.extractLsb' (8 * m) 8)

/-- The bytes of a block, 20_memory.md R72. -/
def blockBytes (w : Width) (x : Word × Word) : List Byte := wordBytes w x.1 ++ wordBytes w x.2

end Sys2Proof.Machine
end

