-- ==== Sys2Proof/Safety.lean ====
section
/-! DEFINITION. What the statements are said in: the invariant of the machine, the invariant that a held context is a key
schedule (10_state.md R42), the part of the state the Engine works on, agreement of two states up to what is never read
(R46), and a safe run. -/

namespace Sys2Proof.Machine

/-- Entries 0 to n - 1 have no bit at or above `bits` (10_state.md R43). -/
abbrev Memory.fits (n bits : Nat) (m : Memory) : Prop := ∀ i, i < n → (m.read i).toNat < 2 ^ bits

/-- Entries 0 to n - 1 are equal. -/
abbrev Memory.agree (n : Nat) (m m' : Memory) : Prop := ∀ i, i < n → m.read i = m'.read i

/-- The tables are in canonical form and have no entry the spec does not give them (00_scope.md R8, 10_state.md R34). -/
abbrev State.tablesOk (s : State) : Prop :=
  s.sTab.wf = true ∧ s.lArr.wf = true ∧ s.key.wf = true ∧
  s.sTab.within (Config.sMax s.rMax) = true ∧ s.lArr.within Config.lMax = true ∧ s.key.within Config.keyRegs = true

/-- The working words are words of the given width (10_state.md R38). -/
abbrev State.wordsFit (bits : Nat) (s : State) : Prop := s.wa.toNat < 2 ^ bits ∧ s.wb.toNat < 2 ^ bits

/-- The latched parameters of a BUILD in progress (10_state.md R37, 41_key_schedule.md R131), while no context is held. -/
abbrev State.buildLatched (s : State) : Prop :=
  (Width.ofField s.opw).isSome = true ∧ s.opr.toNat ≤ s.rMax.toNat ∧ s.opt.toNat = tableLength s.opr.toNat ∧
  1 ≤ s.opc.toNat ∧ s.opc.toNat ≤ Config.lMax ∧ s.valid = false ∧ s.lastOp = 1 ∧ s.lArr.fits s.opc.toNat s.opw.toNat

/-- The latched parameters of a block command in progress: those of the context (10_state.md R37). -/
abbrev State.blockLatched (s : State) : Prop :=
  s.valid = true ∧ s.opw = s.ctxW ∧ s.opr = s.ctxR ∧ s.wordsFit s.opw.toNat

/-- The invariant that every step keeps. -/
structure State.Inv (s : State) : Prop where
  /-- R_MAX is legal (00_scope.md R6). -/
  param : Config.wellFormed s.rMax = true
  tables : s.tablesOk
  /-- "When STATUS.VALID = 0 then CTX = 0" (10_state.md R27). -/
  noContext : s.valid = false → s.ctxW = 0 ∧ s.ctxR = 0
  /-- A held context has a legal width and round count, and a table of words of that width (10_state.md R42, R43). -/
  context : s.valid = true → (Width.ofField s.ctxW).isSome = true ∧ s.ctxR.toNat ≤ s.rMax.toNat ∧
    s.sTab.fits (tableLength s.ctxR.toNat) s.ctxW.toNat
  /-- Between commands of a held context WA and WB are words of its width (10_state.md R43). -/
  idleWords : s.phase = .idle → s.valid = true → s.wordsFit s.ctxW.toNat
  /-- While a command runs, DONE = 0 and ERR = 0 (10_state.md R26, 41_key_schedule.md R136). -/
  running : s.phase ≠ .idle → s.done = false ∧ s.err = .noError
  ksInit : s.phase = .ksInit → s.buildLatched ∧ s.k.toNat < s.opt.toNat ∧ s.sTab.fits s.k.toNat s.opw.toNat
  ksMix : s.phase = .ksMix → s.buildLatched ∧ s.k.toNat < mixCount s.opt.toNat s.opc.toNat ∧
    s.wi.toNat < s.opt.toNat ∧ s.wj.toNat < s.opc.toNat ∧
    s.sTab.fits s.opt.toNat s.opw.toNat ∧ s.wordsFit s.opw.toNat
  encPre : s.phase = .encPre → s.blockLatched ∧ s.lastOp = 2
  encRound : s.phase = .encRound → s.blockLatched ∧ s.lastOp = 2 ∧ 1 ≤ s.k.toNat ∧ s.k.toNat ≤ s.opr.toNat
  decRound : s.phase = .decRound → s.blockLatched ∧ s.lastOp = 3 ∧ 1 ≤ s.k.toNat ∧ s.k.toNat ≤ s.opr.toNat
  decPost : s.phase = .decPost → s.blockLatched ∧ s.lastOp = 3

/-- The table holds the key schedule of some key for this width and round count (41_key_schedule.md R139). -/
def holdsKeySchedule (w : Width) (r : Nat) (key : List Byte) (tab : Memory) : Prop :=
  ∀ i, i < tableLength r → tab.read i = (keySchedule w r key).getD i 0

/-- A BUILD in progress has latched this width and key: the count c is that of its key words (41_key_schedule.md R131). -/
def State.buildsFrom (w : Width) (key : List Byte) (s : State) : Prop :=
  Width.ofField s.opw = some w ∧ key.length ≤ Config.keyMax ∧ s.opc.toNat = wordCount w key.length

/-- The held context is the key schedule of some key, and a BUILD in progress is on its way to one: the statement of
10_state.md R42 as an invariant. -/
structure State.KeyInv (s : State) : Prop where
  held : s.valid = true → ∃ w key, Width.ofField s.ctxW = some w ∧ key.length ≤ Config.keyMax ∧
    holdsKeySchedule w s.ctxR.toNat key s.sTab
  /-- In KS_INIT: L holds the key words, S the initial table as far as it is written. -/
  initialising : s.phase = .ksInit → ∃ w key, s.buildsFrom w key ∧
    (∀ j, j < s.opc.toNat → s.lArr.read j = (keyWords w key).getD j 0) ∧
    (∀ i, i < s.k.toNat → s.sTab.read i = initEntry w i)
  /-- In KS_MIX: the working state is that of the mixing loop after K passes. -/
  mixing : s.phase = .ksMix → ∃ w key m, s.buildsFrom w key ∧
    m = mixSteps w s.k.toNat (mixStart w s.opr.toNat key) ∧
    (∀ j, j < s.opc.toNat → s.lArr.read j = m.l.getD j 0) ∧ (∀ i, i < s.opt.toNat → s.sTab.read i = m.s.getD i 0) ∧
    s.wa = m.a ∧ s.wb = m.b ∧ s.wi.toNat = m.i ∧ s.wj.toNat = m.j

/-- What the Engine works on: the state less what the Host may write while a command runs (CFG, KEY, A_IN, B_IN, S_INDEX,
OVERRUN) and less the two agents' own fields. -/
def State.enginePart (s : State) : State :=
  { s with
    cfgW := 0, cfgB := 0, cfgR := 0, overrun := false, aIn := 0, bIn := 0, sIndex := 0, key := []
    program := [], schedule := [], busResult := none }

/-- The state less the internal registers and tables that reset leaves unspecified (70_reset_and_hazards.md R200). -/
def State.specifiedPart (s : State) : State :=
  { s with k := 0, opw := 0, opr := 0, opt := 0, opc := 0, wa := 0, wb := 0, wi := 0, wj := 0, sTab := [], lArr := [] }

/-- Two states differ at most in internal state that is written before it is read (10_state.md R46): in each phase, what
the rest of the command in progress reads is equal. -/
structure State.Agree (s t : State) : Prop where
  specified : s.specifiedPart = t.specifiedPart
  context : s.valid = true → s.sTab.agree (tableLength s.ctxR.toNat) t.sTab
  width : s.phase ≠ .idle → s.opw = t.opw
  build : s.phase = .ksInit ∨ s.phase = .ksMix → s.opr = t.opr ∧ s.opt = t.opt ∧ s.opc = t.opc ∧ s.k = t.k ∧
    s.lArr.agree s.opc.toNat t.lArr
  ksInit : s.phase = .ksInit → s.sTab.agree s.k.toNat t.sTab
  ksMix : s.phase = .ksMix → s.sTab.agree s.opt.toNat t.sTab ∧ s.wi = t.wi ∧ s.wj = t.wj
  encrypt : s.phase = .encPre ∨ s.phase = .encRound → s.opr = t.opr
  rounds : s.phase = .encRound ∨ s.phase = .decRound → s.k = t.k
  words : s.phase ≠ .idle → s.phase ≠ .ksInit → s.wa = t.wa ∧ s.wb = t.wb

/-- n steps of the machine. -/
def runSteps (n : Nat) (s : State) : Result := Host.Core.run core n s

/-- A safe run: no number of steps ends in a fault or a refusal. -/
def State.Safe (s : State) : Prop := ∀ n, ∃ t, runSteps n s = .next t

/-- Whose turn the next step is (20_memory.md R73). -/
def State.turn (s : State) : Turn :=
  match s.schedule with
  | t :: _ => t
  | [] => s.defaultTurn

/-- The next step is the Host's write of this word to CMD while BUSY = 0. -/
def State.presents (cw : Word) (s : State) : Prop :=
  s.turn = .host ∧ s.busy = false ∧ ∃ rest, s.program = .write 0x018 8 cw :: rest

/-- A BUILD with these parameters passes its checks: CFG selects the width w, and B and R are in range
(41_key_schedule.md R131). -/
abbrev State.buildLegal (w : Width) (s : State) : Prop :=
  Width.ofField s.cfgW = some w ∧ s.cfgB.toNat ≤ Config.keyMax ∧ s.cfgR.toNat ≤ s.rMax.toNat

end Sys2Proof.Machine
end

