-- ==== Sys2Proof/Certificates/Slice0/Obligations.lean ====
section
/-! DEFINITION. The statements for the provers. Each docstring names the rule of spec/ a statement formalises. -/

open Sys2Proof Sys2Proof.Machine

/-! Encoding and acceptance. -/

/-- 30_encoding.md R91: with RES = 0, OP 0 to 4 are the five commands and 5 to 15 are reserved. -/
def Obligations.OpcodeMapDecodes : Prop :=
  decode 0x0 = .ok .nop ∧ decode 0x1 = .ok .build ∧ decode 0x2 = .ok .encrypt ∧ decode 0x3 = .ok .decrypt ∧
  decode 0x4 = .ok .clear ∧
  ∀ op : BitVec 4, 5 ≤ op.toNat → decode ((0 : BitVec 60) ++ op) = .error .reservedOpcode

/-- Decode and encode agree for every command: by word, as a table row, and as the eight bytes of its little-endian lanes
(30_encoding.md R90, R91, 20_memory.md R70). -/
def Obligations.EncodeThenDecodeGivesTheCommand : Prop :=
  ∀ i : Instr, i.wellFormed = true →
    decode (encode i) = .ok i ∧ decodeTableWord 64 (encode i).toNat = some i ∧
    ∀ rest : List Byte,
      decodeBytes ((List.range 8).map (fun m => (encode i).extractLsb' (8 * m) 8) ++ rest) = .ok (i, rest)

/-- A word decodes to a command exactly when it is that command's word: no other 64-bit word names a command
(30_encoding.md R90, R91, R98). -/
def Obligations.DecodeAcceptsOnlyCommandWords : Prop :=
  ∀ (cw : BitVec 64) (i : Instr), decode cw = .ok i ↔ cw = encode i

/-- 30_encoding.md R92: the acceptance of a word, arm by arm and in the order of the rule. -/
def Obligations.AcceptanceFollowsTheDecoderArms : Prop :=
  ∀ (cw : Word) (s : State), acceptWord cw s =
    (if cw = 0 then .next s
     else if s.busy = true then .next { s with overrun := true }
     else if cw.extractLsb' 4 60 ≠ 0 ∨ 5 ≤ (cw.extractLsb' 0 4).toNat then
       .next { s with err := .illegalCommand, lastOp := cw.extractLsb' 0 4, done := true, overrun := false }
     else if (cw.extractLsb' 0 4).toNat = 1 then .next (acceptBuild s)
     else if (cw.extractLsb' 0 4).toNat = 2 then .next (acceptEncrypt s)
     else if (cw.extractLsb' 0 4).toNat = 3 then .next (acceptDecrypt s)
     else .next (acceptClear s))

/-- 30_encoding.md R98, 43_control.md R172, 60_exceptions.md R186: which words are illegal, and what an idle engine does
with one. -/
def Obligations.IllegalWordIsRecorded : Prop :=
  (∀ cw : Word, (∃ e, decode cw = .error e) ↔ cw.extractLsb' 4 60 ≠ 0 ∨ 5 ≤ (cw.extractLsb' 0 4).toNat) ∧
  (∀ (cw : Word) (s : State), s.busy = false → (cw.extractLsb' 4 60 ≠ 0 ∨ 5 ≤ (cw.extractLsb' 0 4).toNat) →
    acceptWord cw s =
      .next { s with err := .illegalCommand, lastOp := cw.extractLsb' 0 4, done := true, overrun := false }) ∧
  ErrCode.illegalCommand.code = 0x05

/-- 43_control.md R170: NOP changes nothing, busy or not; the only NOP word is 0, and every other word with OP = 0 is
illegal. -/
def Obligations.NopChangesNothing : Prop :=
  encode .nop = 0 ∧ (∀ cw : Word, decode cw = .ok .nop → cw = 0) ∧
  (∀ cw : Word, cw.extractLsb' 0 4 = 0 → cw ≠ 0 → decode cw = .error .reservedBits) ∧
  ∀ s : State, exec .nop s = .next s ∧ acceptWord 0 s = .next s

/-- 41_key_schedule.md R131: the acceptance of BUILD on an idle engine, its three checks in order and what it writes. The
entries of S from t on and of L from c on, which 93_implementation_defined.md U7 leaves open while the BUILD runs, are left
open here; BuildWritesExactlyTheKeyWords says what becomes of them in this model. -/
def Obligations.BuildAcceptance : Prop :=
  (∀ (s : State) (w : Width), s.busy = false → s.cfgW.toNat = w.bits → s.cfgB.toNat ≤ 255 →
    s.cfgR.toNat ≤ s.rMax.toNat → ∃ t,
    exec .build s = .next t ∧
    t = { s with
      opw := s.cfgW, opr := s.cfgR
      opt := BitVec.ofNat 32 (2 * s.cfgR.toNat + 2)
      opc := BitVec.ofNat 8 (max 1 ((s.cfgB.toNat + w.bits / 8 - 1) / (w.bits / 8)))
      sTab := t.sTab, lArr := t.lArr
      valid := false, ctxW := 0, ctxR := 0
      done := false, err := .noError, overrun := false, lastOp := 1
      k := 0, phase := .ksInit } ∧
    (∀ i, i < 2 * s.cfgR.toNat + 2 → t.sTab.read i = s.sTab.read i) ∧
    (s.lArr.wf = true → ∀ j, j < max 1 ((s.cfgB.toNat + w.bits / 8 - 1) / (w.bits / 8)) →
      t.lArr.read j = (keyWords w (keyBytes s.key s.cfgB.toNat)).getD j 0)) ∧
  (∀ s : State, s.busy = false → s.cfgW.toNat ≠ 16 → s.cfgW.toNat ≠ 32 → s.cfgW.toNat ≠ 64 →
    exec .build s =
      .next { s with err := .unsupportedWordWidth, lastOp := 1, done := true, overrun := false }) ∧
  (∀ (s : State) (w : Width), s.busy = false → s.cfgW.toNat = w.bits → 255 < s.cfgB.toNat →
    exec .build s = .next { s with err := .keyTooLong, lastOp := 1, done := true, overrun := false }) ∧
  (∀ (s : State) (w : Width), s.busy = false → s.cfgW.toNat = w.bits → s.cfgB.toNat ≤ 255 →
    s.rMax.toNat < s.cfgR.toNat →
    exec .build s = .next { s with err := .roundsUnsupported, lastOp := 1, done := true, overrun := false })

/-- 60_exceptions.md R182, R183, R184: the code a failed BUILD leaves in STATUS, as the Host reads it, and that the
context and the results stay. -/
def Obligations.FailedBuildStatusWord : Prop :=
  ∀ (s : State) (code : BitVec 8), s.busy = false →
    ((code = 0x01 ∧ s.cfgW.toNat ≠ 16 ∧ s.cfgW.toNat ≠ 32 ∧ s.cfgW.toNat ≠ 64) ∨
      (∃ w : Width, s.cfgW.toNat = w.bits ∧
        ((code = 0x02 ∧ 255 < s.cfgB.toNat) ∨ (code = 0x03 ∧ s.cfgB.toNat ≤ 255 ∧ s.rMax.toNat < s.cfgR.toNat)))) →
    ∃ t, exec .build s = .next t ∧
      (busReadResult 0x020 8 t).1 = (0 : BitVec 44) ++ ((1 : BitVec 4) ++ (code ++
        ((1 : BitVec 6) ++ (BitVec.ofBool s.valid ++ (0 : BitVec 1))))) ∧
      t.ctxW = s.ctxW ∧ t.ctxR = s.ctxR ∧ t.sTab = s.sTab ∧ t.aOut = s.aOut ∧ t.bOut = s.bOut

/-- 42_block_cipher.md R153: the acceptance of ENCRYPT on an idle engine, with and without a context. What becomes of OPT
and OPC, which no step of ENCRYPT reads, is left open here (log 9). -/
def Obligations.EncryptAcceptance : Prop :=
  (∀ s : State, s.busy = false → s.valid = true → ∃ t,
    exec .encrypt s = .next t ∧
    t = { s with
      opw := s.ctxW, opr := s.ctxR, opt := t.opt, opc := t.opc
      wa := BitVec.ofNat 64 (s.aIn.toNat % 2 ^ s.ctxW.toNat)
      wb := BitVec.ofNat 64 (s.bIn.toNat % 2 ^ s.ctxW.toNat)
      done := false, err := .noError, overrun := false, lastOp := 2
      phase := .encPre }) ∧
  (∀ s : State, s.busy = false → s.valid = false →
    exec .encrypt s = .next { s with err := .noContext, lastOp := 2, done := true, overrun := false })

/-- 42_block_cipher.md R157: the acceptance of DECRYPT on an idle engine, with rounds, without, and without a context. What
becomes of OPT and OPC, which no step of DECRYPT reads, is left open here (log 9). -/
def Obligations.DecryptAcceptance : Prop :=
  (∀ s : State, s.busy = false → s.valid = true → ∃ t,
    exec .decrypt s = .next t ∧
    t = { s with
      opw := s.ctxW, opr := s.ctxR, opt := t.opt, opc := t.opc
      wa := BitVec.ofNat 64 (s.aIn.toNat % 2 ^ s.ctxW.toNat)
      wb := BitVec.ofNat 64 (s.bIn.toNat % 2 ^ s.ctxW.toNat)
      done := false, err := .noError, overrun := false, lastOp := 3
      k := s.ctxR
      phase := if s.ctxR.toNat = 0 then Phase.decPost else Phase.decRound }) ∧
  (∀ s : State, s.busy = false → s.valid = false →
    exec .decrypt s = .next { s with err := .noContext, lastOp := 3, done := true, overrun := false })

/-- 60_exceptions.md R185: a block command of an idle engine with no context records code 4 and leaves A_OUT and B_OUT;
of a busy engine it is dropped and records no code. -/
def Obligations.BlockCommandWithoutContext : Prop :=
  ∀ (i : Instr) (s : State), i = .encrypt ∨ i = .decrypt →
    (s.busy = false → s.valid = false → ∃ t, exec i s = .next t ∧ t.err.code = 0x04 ∧ t.lastOp = i.op ∧
      t.aOut = s.aOut ∧ t.bOut = s.bOut ∧ t.phase = .idle) ∧
    (s.busy = true → ∃ t, exec i s = .next t ∧ t.err = s.err ∧ t.overrun = true ∧ t.phase = s.phase)

/-- 43_control.md R171: CLEAR of an idle engine, with a context or without; afterwards every entry reads 0, S_DATA reads 0
and a block command finds no context. -/
def Obligations.ClearDropsContextAndKeys : Prop :=
  ∀ s : State, s.busy = false → ∃ t,
    exec .clear s = .next t ∧
    t = { s with
      sTab := t.sTab, lArr := t.lArr, key := t.key
      wa := 0, wb := 0, ctxW := 0, ctxR := 0, aOut := 0, bOut := 0
      valid := false, done := true, err := .noError, overrun := false, lastOp := 4 } ∧
    (∀ a, t.sTab.read a = 0 ∧ t.lArr.read a = 0 ∧ t.key.read a = 0) ∧
    t.tablesOk ∧ (∀ x, State.sData { t with sIndex := x } = 0) ∧
    (∀ i, i = .encrypt ∨ i = .decrypt → ∃ u, exec i t = .next u ∧ u.err = .noContext)

/-- 60_exceptions.md R187: while BUSY = 1 every non-zero word, a command or not, only sets OVERRUN. -/
def Obligations.BusyEngineDropsCommands : Prop :=
  (∀ (cw : Word) (s : State), s.busy = true → cw ≠ 0 → acceptWord cw s = .next { s with overrun := true }) ∧
  (∀ (i : Instr) (s : State), s.busy = true → i ≠ .nop → exec i s = .next { s with overrun := true })

/-- 43_control.md R173 and 60_exceptions.md R191: OVERRUN and ERR last, through completions too, until the next non-NOP
word written while idle (which clears OVERRUN, and ERR too where the word is accepted) or a reset (which clears both). -/
def Obligations.OverrunAndErrorLast : Prop :=
  (∀ (cw : Word) (s t : State), s.busy = true → cw ≠ 0 → acceptWord cw s = .next t → t = { s with overrun := true }) ∧
  (∀ s t : State, microStep s = .next t → t.overrun = s.overrun ∧ t.err = s.err) ∧
  (∀ (cw : Word) (s t : State), s.busy = false → cw ≠ 0 → acceptWord cw s = .next t → t.overrun = false ∧
    (t.phase ≠ .idle ∨ decode cw = .ok .clear → t.err = .noError)) ∧
  (∀ s t : State, s.turn = .reset → step s = .next t → t.overrun = false ∧ t.err = .noError) ∧
  (∀ s t : State, step s = .next t →
    ((s.overrun = true → t.overrun = true) ∧ t.err = s.err) ∨ s.turn = .reset ∨ ∃ cw, cw ≠ 0 ∧ s.presents cw)

/-- 60_exceptions.md R190 (and 00_scope.md R15): a word that leaves an error code on an idle engine changes ERR, LAST_OP,
DONE and OVERRUN and nothing else. -/
def Obligations.ErrorRecordingChangesOnlyStatus : Prop :=
  ∀ (cw : Word) (s t : State), s.busy = false → cw ≠ 0 → acceptWord cw s = .next t → t.err ≠ .noError →
    t = { s with err := t.err, lastOp := cw.extractLsb' 0 4, done := true, overrun := false }

/-- The frame of the commands (30_encoding.md R93, 10_state.md section 2): what each leaves as it was, every entry of S, L
and KEY among it. CLEAR writes all three tables, BUILD writes L; no other command writes one. That ENCRYPT and DECRYPT leave OPT and OPC is
the model's reading (log 9), and that a command leaves the entries of S and L beyond those it uses is its choice (log 16). -/
def Obligations.CommandFrame : Prop :=
  ∀ (i : Instr) (s t : State), exec i s = .next t →
    (t.rMax = s.rMax ∧ t.cfgW = s.cfgW ∧ t.cfgB = s.cfgB ∧ t.cfgR = s.cfgR ∧ t.aIn = s.aIn ∧ t.bIn = s.bIn ∧
      t.sIndex = s.sIndex ∧ t.wi = s.wi ∧ t.wj = s.wj ∧
      t.program = s.program ∧ t.schedule = s.schedule ∧ t.busResult = s.busResult) ∧
    (i ≠ .clear → t.aOut = s.aOut ∧ t.bOut = s.bOut ∧ (∀ a, t.key.read a = s.key.read a) ∧
      ∀ a, t.sTab.read a = s.sTab.read a) ∧
    (i ≠ .clear → i ≠ .build → t.valid = s.valid ∧ t.ctxW = s.ctxW ∧ t.ctxR = s.ctxR ∧
      ∀ a, t.lArr.read a = s.lArr.read a) ∧
    (i ≠ .build → t.opt = s.opt ∧ t.opc = s.opc) ∧
    (i ≠ .build → i ≠ .decrypt → t.k = s.k) ∧
    (i = .nop ∨ i = .clear → t.opw = s.opw ∧ t.opr = s.opr ∧ t.phase = s.phase) ∧
    (i = .nop ∨ i = .build → t.wa = s.wa ∧ t.wb = s.wb)

/-- BUILD's frame of the two tables (41_key_schedule.md R131, R132): entries 0 to c - 1 of L take the key words, every other
entry of L and all of S stay. That the entries from c on of L and from t on of S stay is the model's choice (log 16). -/
def Obligations.BuildWritesExactlyTheKeyWords : Prop :=
  ∀ (s t : State) (w : Width), s.busy = false → s.cfgW.toNat = w.bits → s.cfgB.toNat ≤ 255 →
    s.cfgR.toNat ≤ s.rMax.toNat → exec .build s = .next t →
    t.opc.toNat = wordCount w s.cfgB.toNat ∧ t.sTab = s.sTab ∧
    t.lArr = s.lArr.writeFrom 0 (keyWords w (keyBytes s.key s.cfgB.toNat)) ∧
    (s.lArr.wf = true → ∀ a, t.lArr.read a =
      if a < wordCount w s.cfgB.toNat then (keyWords w (keyBytes s.key s.cfgB.toNat)).getD a 0 else s.lArr.read a)

/-! The bus. -/

/-- 20_memory.md R62, R63, 60_exceptions.md R188: an access of another size or at an unaligned offset gets ERROR and
changes nothing but the response. -/
def Obligations.UnsupportedAccessGetsError : Prop :=
  ∀ (off : BitVec 12) (size : Nat) (d : Word) (s : State), size ≠ 8 ∨ off.toNat % 8 ≠ 0 →
    busReadResult off size s = (0, .error) ∧
    busRead off size s = { s with busResult := some (.read 0 .error) } ∧
    busWrite off size d s = .next { s with busResult := some (.write .error) }

/-- 20_memory.md R65: reserved offsets read 0 and ignore writes, with OKAY. -/
def Obligations.ReservedOffsetsReadZero : Prop :=
  ∀ (off : BitVec 12) (d : Word) (s : State), off.toNat % 8 = 0 →
    (0x060 ≤ off.toNat ∧ off.toNat ≤ 0x0F8) ∨ (0x200 ≤ off.toNat ∧ off.toNat ≤ 0xFF8) →
    busRead off 8 s = { s with busResult := some (.read 0 .okay) } ∧
    busWrite off 8 d s = .next { s with busResult := some (.write .okay) }

/-- 20_memory.md R66: a write to ID, CAP, STATUS, CTX, A_OUT, B_OUT or S_DATA is ignored with OKAY; CMD reads 0. -/
def Obligations.ReadOnlyRegistersIgnoreWrites : Prop :=
  (∀ (off : BitVec 12) (d : Word) (s : State),
    off ∈ ([0x000, 0x008, 0x020, 0x028, 0x040, 0x048, 0x058] : List (BitVec 12)) →
    busWrite off 8 d s = .next { s with busResult := some (.write .okay) }) ∧
  ∀ s : State, busReadResult 0x018 8 s = (0, .okay)

/-- What a read returns, and what a write of each read-write register does (20_memory.md R64, R68, 10_state.md R24, R27 to
R32, R34): a read gives the register's current value in every state, changes nothing but the response, and reading again
gives the same; a write stores in its own register and changes no other. Key byte k lies where R34 puts it. -/
def Obligations.RegisterAccessEffects : Prop :=
  (∀ (off off' : BitVec 12) (size size' : Nat) (s : State),
    busRead off size s = { s with busResult := (busRead off size s).busResult } ∧
    busReadResult off' size' (busRead off size s) = busReadResult off' size' s) ∧
  (∀ (d : Word) (s : State),
    busWrite 0x010 8 d s = .next { s with
      cfgW := d.extractLsb' 0 8, cfgB := d.extractLsb' 8 16, cfgR := d.extractLsb' 32 32
      busResult := some (.write .okay) } ∧
    busWrite 0x030 8 d s = .next { s with aIn := d, busResult := some (.write .okay) } ∧
    busWrite 0x038 8 d s = .next { s with bIn := d, busResult := some (.write .okay) } ∧
    busWrite 0x050 8 d s = .next { s with sIndex := d.extractLsb' 0 32, busResult := some (.write .okay) }) ∧
  (∀ s : State,
    busReadResult 0x010 8 s = (s.cfgR ++ ((0 : BitVec 8) ++ (s.cfgB ++ s.cfgW)), .okay) ∧
    busReadResult 0x028 8 s = (s.ctxR ++ ((0 : BitVec 24) ++ s.ctxW), .okay) ∧
    busReadResult 0x030 8 s = (s.aIn, .okay) ∧ busReadResult 0x038 8 s = (s.bIn, .okay) ∧
    busReadResult 0x040 8 s = (s.aOut, .okay) ∧ busReadResult 0x048 8 s = (s.bOut, .okay) ∧
    busReadResult 0x050 8 s = ((0 : BitVec 32) ++ s.sIndex, .okay) ∧
    ∀ k, k < 256 → ∃ v, busReadResult (BitVec.ofNat 12 (0x100 + 8 * (k / 8))) 8 s = (v, .okay) ∧
      v = s.key.read (k / 8) ∧ keyByte s.key k = v.extractLsb' (8 * (k % 8)) 8) ∧
  (∀ (d : Word) (s : State), busReadResult 0x030 8 { s with aIn := d } = (d, .okay) ∧
    busReadResult 0x038 8 { s with bIn := d } = (d, .okay)) ∧
  ∀ (q : Fin 32) (d : Word) (s : State), s.key.wf = true → ∃ t,
    busWrite (BitVec.ofNat 12 (0x100 + 8 * q.val)) 8 d s = .next t ∧
    t = { s with key := t.key, busResult := some (.write .okay) } ∧
    ∀ p : Fin 32, busReadResult (BitVec.ofNat 12 (0x100 + 8 * p.val)) 8 t =
      (if p = q then d else s.key.read p.val, .okay)

/-- The fields of STATUS as the Host reads them (10_state.md R26, 60_exceptions.md R181): BUSY is `PHASE ≠ IDLE`. -/
def Obligations.StatusRegisterFields : Prop :=
  ∀ s : State, ∃ v : Word, busReadResult 0x020 8 s = (v, .okay) ∧
    (v.getLsbD 0 = true ↔ s.phase ≠ .idle) ∧ v.getLsbD 1 = s.valid ∧ v.getLsbD 2 = s.done ∧ v.getLsbD 3 = s.overrun ∧
    v.extractLsb' 4 4 = 0 ∧ v.extractLsb' 8 8 = s.err.code ∧ v.extractLsb' 16 4 = s.lastOp ∧ v.extractLsb' 20 44 = 0 ∧
    (v.extractLsb' 8 8).toNat ≤ 5

/-- 10_state.md R22 and R23: the identification registers, their fields, and that writes are ignored. -/
def Obligations.IdentificationRegisters : Prop :=
  ∀ s : State, ∃ cap : Word,
    busReadResult 0x000 8 s = (0x0000000700524335, .okay) ∧ busReadResult 0x008 8 s = (cap, .okay) ∧
    cap.extractLsb' 0 3 = 7 ∧ cap.extractLsb' 3 5 = 0 ∧ cap.extractLsb' 8 8 = 0xFF ∧ cap.extractLsb' 16 16 = 0 ∧
    cap.extractLsb' 32 16 = s.rMax ∧ cap.extractLsb' 48 16 = 0 ∧
    ∀ d, busWrite 0x000 8 d s = .next { s with busResult := some (.write .okay) } ∧
      busWrite 0x008 8 d s = .next { s with busResult := some (.write .okay) }

/-- 20_memory.md R67: reserved fields read 0 and discard what is written to them, while a non-zero RES field makes a
command word illegal. -/
def Obligations.ReservedFieldsReadZero : Prop :=
  (∀ s : State,
    (busReadResult 0x000 8 s).1.extractLsb' 24 8 = 0 ∧ (busReadResult 0x000 8 s).1.extractLsb' 40 24 = 0 ∧
    (busReadResult 0x008 8 s).1.extractLsb' 3 5 = 0 ∧ (busReadResult 0x008 8 s).1.extractLsb' 16 16 = 0 ∧
    (busReadResult 0x008 8 s).1.extractLsb' 48 16 = 0 ∧
    (busReadResult 0x010 8 s).1.extractLsb' 24 8 = 0 ∧ (busReadResult 0x050 8 s).1.extractLsb' 32 32 = 0 ∧
    (busReadResult 0x020 8 s).1.extractLsb' 4 4 = 0 ∧ (busReadResult 0x020 8 s).1.extractLsb' 20 44 = 0 ∧
    (busReadResult 0x028 8 s).1.extractLsb' 8 24 = 0) ∧
  (∀ (d : Word) (s : State), ∃ t u, busWrite 0x010 8 d s = .next t ∧ busWrite 0x050 8 d s = .next u ∧
    (busReadResult 0x010 8 t).1 = d &&& 0xFFFFFFFF00FFFFFF ∧
    (busReadResult 0x050 8 u).1 = d &&& 0x00000000FFFFFFFF) ∧
  ∀ cw : Word, cw.extractLsb' 4 60 ≠ 0 → decode cw = .error .reservedBits

/-- The S table window (10_state.md R33): what S_DATA reads, and that a write of it changes nothing. -/
def Obligations.SDataWindow : Prop :=
  ∀ s : State,
    (s.valid = true → s.sIndex.toNat < 2 * s.ctxR.toNat + 2 →
      busReadResult 0x058 8 s = (s.sTab.read s.sIndex.toNat, .okay)) ∧
    (s.valid = false ∨ 2 * s.ctxR.toNat + 2 ≤ s.sIndex.toNat → busReadResult 0x058 8 s = (0, .okay)) ∧
    ∀ d, busWrite 0x058 8 d s = .next { s with busResult := some (.write .okay) }

/-- 30_encoding.md R100: SETCFG and LOADKEY. SETCFG's one write sets the three fields; LOADKEY's writes, run by the Host
one step each, put the key's bytes into the KEY buffer and leave every later KEY register. -/
def Obligations.SetcfgAndLoadkeyFillTheirRegisters : Prop :=
  (∀ (w r b : Nat) (s : State), w < 2 ^ 8 → r < 2 ^ 32 → b < 2 ^ 16 → ∃ off d,
    (HostLine.setcfg w r b).expand = [HostOp.write off 8 d] ∧
    busWrite off 8 d s = .next { s with
      cfgW := BitVec.ofNat 8 w, cfgB := BitVec.ofNat 16 b, cfgR := BitVec.ofNat 32 r
      busResult := some (.write .okay) }) ∧
  ∀ (bytes : List Byte) (rest : List HostOp) (sch : List Turn) (s : State), bytes.length ≤ 256 → s.key.wf = true →
    s.program = (HostLine.loadkey bytes).expand ++ rest →
    s.schedule = List.replicate ((bytes.length + 7) / 8) Turn.host ++ sch → ∃ t,
    runSteps ((bytes.length + 7) / 8) s = .next t ∧ t.program = rest ∧ t.schedule = sch ∧
    keyBytes t.key bytes.length = bytes ∧ ∀ q, (bytes.length + 7) / 8 ≤ q → t.key.read q = s.key.read q

/-! Reset and the order of events. -/

/-- What every register of the map reads right after reset (10_state.md R21), for every R_MAX. -/
def Obligations.ResetRegisterValues : Prop :=
  ∀ rMax : BitVec 16,
    (∀ (off : BitVec 12) (v : Word),
      (off, v) ∈ ([(0x000, 0x0000000700524335), (0x008, BitVec.ofNat 64 (rMax.toNat <<< 32 + 0xFF07)),
        (0x010, 0x0000000C00001020), (0x018, 0), (0x020, 0), (0x028, 0), (0x030, 0), (0x038, 0), (0x040, 0),
        (0x048, 0), (0x050, 0), (0x058, 0)] : List (BitVec 12 × Word)) →
      busReadResult off 8 (State.resetWith rMax) = (v, .okay)) ∧
    ∀ q : Fin 32, busReadResult (BitVec.ofNat 12 (0x100 + 8 * q.val)) 8 (State.resetWith rMax) = (0, .okay)

/-- 70_reset_and_hazards.md R200: the reset input, one step in any state, also in the middle of a command. What it leaves
unspecified is not stated. -/
def Obligations.ResetInputStep : Prop :=
  ∀ (s : State) (sch : List Turn), s.schedule = .reset :: sch → ∃ t,
    step s = .next t ∧ t.phase = .idle ∧ t.cfgWord = 0x0000000C00001020 ∧ t.statusWord = 0 ∧ t.ctxWord = 0 ∧
    t.aIn = 0 ∧ t.bIn = 0 ∧ t.aOut = 0 ∧ t.bOut = 0 ∧ t.sIndex = 0 ∧ (∀ q, t.key.read q = 0) ∧
    t.rMax = s.rMax ∧ readReg .id t = readReg .id s ∧ readReg .cap t = readReg .cap s

/-- A step runs the decoded command: when the Host's next access writes a word to CMD and it is the Host's turn, the step
is `exec` of the command the word decodes to, with the access taken off the program, the turn off the schedule, and the
response OKAY left (10_state.md R25, 20_memory.md R61, R73); a word that names no command is dropped or recorded. That an
idle engine leaves the turn to the Host once the schedule has run out is the model's choice (log 5), and so is how a
command is placed to run next (log 7). -/
def Obligations.StepRunsTheDecodedCommand : Prop :=
  (∀ (s : State) (cw : Word) (i : Instr) (rest : List HostOp), s.program = .write 0x018 8 cw :: rest →
    decode cw = .ok i →
    (∀ sch, s.schedule = .host :: sch →
      step s = mapNext (State.respond (.write .okay)) (exec i { s with program := rest, schedule := sch })) ∧
    (s.schedule = [] → s.busy = false →
      step s = mapNext (State.respond (.write .okay)) (exec i { s with program := rest }))) ∧
  (∀ (s : State) (cw : Word) (e : DecodeReject) (rest : List HostOp) (sch : List Turn),
    s.program = .write 0x018 8 cw :: rest → s.schedule = .host :: sch → decode cw = .error e →
    step s = .next (State.respond (.write .okay)
      (illegalCommand (opField cw) { s with program := rest, schedule := sch }))) ∧
  ∀ (s : State) (w : Nat) (i : Instr), decodeTableWord 64 w = some i →
    step (s.withFetchWord 64 w) = mapNext (State.respond (.write .okay)) (exec i s)

/-- The Engine's turns (10_state.md R35, 60_exceptions.md R198, 70_reset_and_hazards.md R209): an idle engine takes no step
and everything stays; a busy one takes its micro-step when scheduled, and when the schedule has run out (the model's choice
for the fairness of R209, log 5). -/
def Obligations.EngineTurns : Prop :=
  (∀ s : State, s.phase = .idle → microStep s = .next s) ∧
  (∀ s : State, s.phase = .idle → s.schedule = [] → s.program = [] → step s = .next s) ∧
  (∀ (s : State) (sch : List Turn), s.schedule = .engine :: sch → step s = microStep { s with schedule := sch }) ∧
  (∀ s : State, s.schedule = [] → s.phase ≠ .idle → step s = microStep s)

/-! The datapath. -/

/-- 40_datapath.md R110, R111, R112: addition and subtraction modulo `2 ^ w`, three-operand sums, and that every primitive
returns a word of width w. -/
def Obligations.ArithmeticIsModuloTwoToTheWidth : Prop :=
  ∀ (w : Width) (x y z : Word) (n : Nat), x.toNat < 2 ^ w.bits → y.toNat < 2 ^ w.bits → z.toNat < 2 ^ w.bits →
    (addW w x y).toNat = (x.toNat + y.toNat) % 2 ^ w.bits ∧
    ((subW w x y).toNat : Int) = ((x.toNat : Int) - (y.toNat : Int)) % ((2 ^ w.bits : Nat) : Int) ∧
    (addW w (addW w x y) z).toNat = (x.toNat + y.toNat + z.toNat) % 2 ^ w.bits ∧
    (addW w x y).toNat < 2 ^ w.bits ∧ (subW w x y).toNat < 2 ^ w.bits ∧ (x ^^^ y).toNat < 2 ^ w.bits ∧
    (rotlW w x n).toNat < 2 ^ w.bits ∧ (rotrW w x n).toNat < 2 ^ w.bits

/-- 40_datapath.md R114 and R115, bit by bit: rotation left moves bit i to bit (i + n) mod w, rotation right moves it back,
and no bit at or above w is set. -/
def Obligations.RotationMovesEveryBit : Prop :=
  ∀ (w : Width) (x : Word) (n i : Nat), x.toNat < 2 ^ w.bits →
    (i < w.bits → (rotlW w x n).getLsbD ((i + n) % w.bits) = x.getLsbD i ∧
      (rotrW w x n).getLsbD i = x.getLsbD ((i + n) % w.bits)) ∧
    (w.bits ≤ i → (rotlW w x n).getLsbD i = false ∧ (rotrW w x n).getLsbD i = false)

/-- 40_datapath.md R116: the inverse laws. -/
def Obligations.DatapathInverseLaws : Prop :=
  ∀ (w : Width) (x y : Word) (n : Nat), x.toNat < 2 ^ w.bits → y.toNat < 2 ^ w.bits →
    rotrW w (rotlW w x n) n = x ∧ rotlW w (rotrW w x n) n = x ∧ subW w (addW w x y) y = x ∧ (x ^^^ y) ^^^ y = x

/-! The key schedule. -/

/-- 20_memory.md R71 (with 00_scope.md R7): byte m of key word q is key byte `q·u + m`, 0 past the end of the key, and the
number of words is `max(1, ceil(b / u))`; every word fits in w bits. -/
def Obligations.KeyWordsAreLittleEndian : Prop :=
  ∀ (w : Width) (key : List Byte),
    (keyWords w key).length = (if key.length = 0 then 1 else (key.length + w.bits / 8 - 1) / (w.bits / 8)) ∧
    ∀ q, q < (keyWords w key).length →
      ((keyWords w key).getD q 0).toNat < 2 ^ w.bits ∧
      ∀ m, m < w.bits / 8 →
        ((keyWords w key).getD q 0).extractLsb' (8 * m) 8 = key.getD (q * (w.bits / 8) + m) 0

/-- 41_key_schedule.md R133 and 40_datapath.md R119: the KS_INIT micro-step with the magic constants of each width, and the
arithmetic progression that OPT of them leave, with the start of the mixing. The entries of S from t on and of L from c on,
which 93_implementation_defined.md U7 leaves open, are left open here; MicroStepFrame says what becomes of them. -/
def Obligations.KsInitMicroSteps : Prop :=
  ∀ (s : State) (w : Width) (p q : Nat),
    (w, p, q) ∈ ([(.w16, 0xB7E1, 0x9E37), (.w32, 0xB7E15163, 0x9E3779B9),
      (.w64, 0xB7E151628AED2A6B, 0x9E3779B97F4A7C15)] : List (Width × Nat × Nat)) →
    s.Inv → s.phase = .ksInit → s.opw.toNat = w.bits →
    (∃ t, microStep s = .next t ∧
      (let s' := { s with sTab := t.sTab, lArr := t.lArr, k := s.k + 1 }
       t = if s.k.toNat + 1 = s.opt.toNat then
         { s' with wa := 0, wb := 0, wi := 0, wj := 0, k := 0, phase := .ksMix }
       else s') ∧
      (∀ i, i < s.opt.toNat → t.sTab.read i =
        if i = s.k.toNat then
          (if i = 0 then BitVec.ofNat 64 p else addW w (s.sTab.read (i - 1)) (BitVec.ofNat 64 q))
        else s.sTab.read i) ∧
      ∀ j, j < s.opc.toNat → t.lArr.read j = s.lArr.read j) ∧
    (s.k = 0 → ∃ t,
      microSteps s.opt.toNat s = .next t ∧ t.phase = .ksMix ∧ t.wa = 0 ∧ t.wb = 0 ∧ t.wi = 0 ∧ t.wj = 0 ∧ t.k = 0 ∧
      ∀ i, i < s.opt.toNat → (t.sTab.read i).toNat = (p + i * q) % 2 ^ w.bits)

/-- 41_key_schedule.md R134 and R136: the KS_MIX micro-step, with BUILD completion in the last one. The entries of S from t
on and of L from c on, which 93_implementation_defined.md U7 leaves open before completion, are left open here;
MicroStepFrame says what becomes of them. -/
def Obligations.KsMixMicroStep : Prop :=
  ∀ (s : State) (w : Width) (a b : Word), s.Inv → s.phase = .ksMix → s.opw.toNat = w.bits →
    a = rotlW w (addW w (addW w (s.sTab.read s.wi.toNat) s.wa) s.wb) 3 →
    b = rotlW w (addW w (addW w (s.lArr.read s.wj.toNat) a) s.wb) ((addW w a s.wb).toNat % w.bits) → ∃ t,
    microStep s = .next t ∧
    (∀ i, i < s.opt.toNat → t.sTab.read i = if i = s.wi.toNat then a else s.sTab.read i) ∧
    (let s' := { s with
       wa := a, wb := b, sTab := t.sTab, lArr := t.lArr
       wi := BitVec.ofNat 32 ((s.wi.toNat + 1) % s.opt.toNat)
       wj := BitVec.ofNat 32 ((s.wj.toNat + 1) % s.opc.toNat)
       k := s.k + 1 }
     if s.k.toNat + 1 = 3 * max s.opt.toNat s.opc.toNat then
       t = { s' with ctxW := s.opw, ctxR := s.opr, valid := true, done := true, phase := .idle } ∧
       ∀ j, t.lArr.read j = 0
     else
       t = s' ∧ ∀ j, j < s.opc.toNat → t.lArr.read j = if j = s.wj.toNat then b else s.lArr.read j)

/-- BUILD as a whole (41_key_schedule.md R130, R136, R137, R139): accepted by a legal CFG, it takes exactly
`(2r + 2) + 3·max(2r + 2, c)` micro-steps and leaves the context (w, r, KeySchedule(key, w, r)) for the first CFG.B bytes
of KEY, with STATUS as the rule says and no key word left in L. -/
def Obligations.BuildComputesTheKeySchedule : Prop :=
  ∀ (s : State) (w : Width), s.busy = false → s.cfgW.toNat = w.bits → s.cfgB.toNat ≤ 255 →
    s.cfgR.toNat ≤ s.rMax.toNat → s.tablesOk → ∃ s₁ t,
    exec .build s = .next s₁ ∧
    microSteps ((2 * s.cfgR.toNat + 2) + 3 * max (2 * s.cfgR.toNat + 2) (wordCount w s.cfgB.toNat)) s₁ = .next t ∧
    (∀ m, m < (2 * s.cfgR.toNat + 2) + 3 * max (2 * s.cfgR.toNat + 2) (wordCount w s.cfgB.toNat) →
      ∃ u, microSteps m s₁ = .next u ∧ u.phase ≠ .idle) ∧
    t.phase = .idle ∧ t.valid = true ∧ t.ctxW = s.cfgW ∧ t.ctxR = s.cfgR ∧
    t.done = true ∧ t.err = .noError ∧ t.overrun = false ∧ t.lastOp = 1 ∧
    (keySchedule w s.cfgR.toNat (keyBytes s.key s.cfgB.toNat)).length = 2 * s.cfgR.toNat + 2 ∧
    (∀ i, i < 2 * s.cfgR.toNat + 2 →
      t.sTab.read i = (keySchedule w s.cfgR.toNat (keyBytes s.key s.cfgB.toNat)).getD i 0) ∧
    (∀ j, t.lArr.read j = 0) ∧ (∀ q, t.key.read q = s.key.read q) ∧ t.aOut = s.aOut ∧ t.bOut = s.bOut

/-- 41_key_schedule.md R140: the same, whatever Host accesses are interleaved. With no reset in the schedule, a run from
the accepted BUILD first returns to IDLE after a bounded number of events (the fairness of R209, in the model's form, log
5), and then the context is the key schedule of what was latched. -/
def Obligations.BuildIsRightUnderAnyInterleaving : Prop :=
  ∀ (s s₁ : State) (w : Width), s.busy = false → s.cfgW.toNat = w.bits → s.cfgB.toNat ≤ 255 →
    s.cfgR.toNat ≤ s.rMax.toNat → s.tablesOk → Turn.reset ∉ s.schedule → exec .build s = .next s₁ → ∃ n t,
    n ≤ s.schedule.length +
      ((2 * s.cfgR.toNat + 2) + 3 * max (2 * s.cfgR.toNat + 2) (wordCount w s.cfgB.toNat)) ∧
    runSteps n s₁ = .next t ∧ (∀ m, m < n → ∃ u, runSteps m s₁ = .next u ∧ u.phase ≠ .idle) ∧
    t.phase = .idle ∧ t.valid = true ∧ t.ctxW = s.cfgW ∧ t.ctxR = s.cfgR ∧ t.done = true ∧ t.err = .noError ∧
    t.lastOp = 1 ∧
    ∀ i, i < 2 * s.cfgR.toNat + 2 →
      t.sTab.read i = (keySchedule w s.cfgR.toNat (keyBytes s.key s.cfgB.toNat)).getD i 0

/-- From 41_key_schedule.md sections 1 and 2: the table a BUILD leaves depends only on CFG and key bytes 0 to b - 1, not on
the earlier context, the rest of KEY, the old contents of S and L, or anything else of the state. Timing is not varied here:
both runs are micro-steps alone, and BuildIsRightUnderAnyInterleaving has the Host accesses between them. -/
def Obligations.BuildTableDependsOnlyOnKeyAndConfig : Prop :=
  ∀ (s s' : State) (w : Width), s.busy = false → s'.busy = false → s.cfgW.toNat = w.bits → s.cfgB.toNat ≤ 255 →
    s.cfgR.toNat ≤ s.rMax.toNat → s.cfgR.toNat ≤ s'.rMax.toNat → s.tablesOk → s'.tablesOk →
    s'.cfgW = s.cfgW → s'.cfgB = s.cfgB → s'.cfgR = s.cfgR →
    keyBytes s'.key s.cfgB.toNat = keyBytes s.key s.cfgB.toNat → ∃ n u u' t t',
    exec .build s = .next u ∧ exec .build s' = .next u' ∧ microSteps n u = .next t ∧ microSteps n u' = .next t' ∧
    t.valid = true ∧ t'.valid = true ∧ t'.ctxW = t.ctxW ∧ t'.ctxR = t.ctxR ∧
    ∀ i, i < 2 * s.cfgR.toNat + 2 → t'.sTab.read i = t.sTab.read i

/-! The block cipher. -/

/-- 42_block_cipher.md R154, R155 and R160: the ENC_PRE and ENC_ROUND micro-steps, with completion in the last one. -/
def Obligations.EncryptMicroSteps : Prop :=
  (∀ (s : State) (w : Width), s.Inv → s.phase = .encPre → s.opw.toNat = w.bits →
    microStep s = .next
      (let a := addW w s.wa (s.sTab.read 0)
       let b := addW w s.wb (s.sTab.read 1)
       let s' := { s with wa := a, wb := b, k := 1 }
       if s.opr.toNat = 0 then
         { s' with aOut := lowBits w.bits a, bOut := lowBits w.bits b, done := true, phase := .idle }
       else { s' with phase := .encRound })) ∧
  ∀ (s : State) (w : Width), s.Inv → s.phase = .encRound → s.opw.toNat = w.bits →
    microStep s = .next
      (let a := addW w (rotlW w (s.wa ^^^ s.wb) (s.wb.toNat % w.bits)) (s.sTab.read (2 * s.k.toNat))
       let b := addW w (rotlW w (s.wb ^^^ a) (a.toNat % w.bits)) (s.sTab.read (2 * s.k.toNat + 1))
       let s' := { s with wa := a, wb := b }
       if s.k = s.opr then
         { s' with aOut := lowBits w.bits a, bOut := lowBits w.bits b, done := true, phase := .idle }
       else { s' with k := s.k + 1 })

/-- 42_block_cipher.md R158, R159 and R160: the DEC_ROUND and DEC_POST micro-steps, with completion in the last one. -/
def Obligations.DecryptMicroSteps : Prop :=
  (∀ (s : State) (w : Width), s.Inv → s.phase = .decRound → s.opw.toNat = w.bits →
    microStep s = .next
      (let b := rotrW w (subW w s.wb (s.sTab.read (2 * s.k.toNat + 1))) (s.wa.toNat % w.bits) ^^^ s.wa
       let a := rotrW w (subW w s.wa (s.sTab.read (2 * s.k.toNat))) (b.toNat % w.bits) ^^^ b
       let s' := { s with wa := a, wb := b }
       if s.k.toNat = 1 then { s' with phase := .decPost } else { s' with k := s.k - 1 })) ∧
  ∀ (s : State) (w : Width), s.Inv → s.phase = .decPost → s.opw.toNat = w.bits →
    microStep s = .next
      (let a := subW w s.wa (s.sTab.read 0)
       let b := subW w s.wb (s.sTab.read 1)
       { s with
         wa := a, wb := b, aOut := lowBits w.bits a, bOut := lowBits w.bits b, done := true, phase := .idle })

/-- 42_block_cipher.md R161: the round trip, both ways, for every width, round count, table of words and block. -/
def Obligations.DecryptInvertsEncrypt : Prop :=
  ∀ (w : Width) (r : Nat) (tab : Nat → Word) (a b : Word), (∀ i, i < 2 * r + 2 → (tab i).toNat < 2 ^ w.bits) →
    a.toNat < 2 ^ w.bits → b.toNat < 2 ^ w.bits →
    decryptBlock w tab r (encryptBlock w tab r (a, b)) = (a, b) ∧
    encryptBlock w tab r (decryptBlock w tab r (a, b)) = (a, b)

/-- 42_block_cipher.md R162: with r = 0 the transforms are the whitening alone. -/
def Obligations.ZeroRoundsIsWhiteningOnly : Prop :=
  ∀ (w : Width) (tab : Nat → Word) (a b : Word),
    encryptBlock w tab 0 (a, b) = (addW w a (tab 0), addW w b (tab 1)) ∧
    decryptBlock w tab 0 (a, b) = (subW w a (tab 0), subW w b (tab 1))

/-- ENCRYPT as a whole (42_block_cipher.md R152, R160, R164): exactly `1 + r` micro-steps, and A_OUT, B_OUT are Encrypt of
the low w bits of A_IN, B_IN under the held table; the context, KEY and every table entry stay. -/
def Obligations.EncryptComputesTheBlock : Prop :=
  ∀ (s : State) (w : Width), s.Inv → s.busy = false → s.valid = true → s.ctxW.toNat = w.bits → ∃ s₁ t,
    exec .encrypt s = .next s₁ ∧ microSteps (1 + s.ctxR.toNat) s₁ = .next t ∧
    (∀ m, m < 1 + s.ctxR.toNat → ∃ u, microSteps m s₁ = .next u ∧ u.phase ≠ .idle) ∧ t.phase = .idle ∧
    (t.aOut, t.bOut) = encryptBlock w s.sTab.read s.ctxR.toNat (lowBits w.bits s.aIn, lowBits w.bits s.bIn) ∧
    t.done = true ∧ t.err = .noError ∧ t.overrun = false ∧ t.lastOp = 2 ∧
    t.valid = true ∧ t.ctxW = s.ctxW ∧ t.ctxR = s.ctxR ∧ t.sTab = s.sTab ∧ t.key = s.key ∧ t.aIn = s.aIn ∧ t.bIn = s.bIn

/-- DECRYPT as a whole (42_block_cipher.md R156, R160, R164): as ENCRYPT, with Decrypt and `r + 1` micro-steps. -/
def Obligations.DecryptComputesTheBlock : Prop :=
  ∀ (s : State) (w : Width), s.Inv → s.busy = false → s.valid = true → s.ctxW.toNat = w.bits → ∃ s₁ t,
    exec .decrypt s = .next s₁ ∧ microSteps (s.ctxR.toNat + 1) s₁ = .next t ∧
    (∀ m, m < s.ctxR.toNat + 1 → ∃ u, microSteps m s₁ = .next u ∧ u.phase ≠ .idle) ∧ t.phase = .idle ∧
    (t.aOut, t.bOut) = decryptBlock w s.sTab.read s.ctxR.toNat (lowBits w.bits s.aIn, lowBits w.bits s.bIn) ∧
    t.done = true ∧ t.err = .noError ∧ t.overrun = false ∧ t.lastOp = 3 ∧
    t.valid = true ∧ t.ctxW = s.ctxW ∧ t.ctxR = s.ctxR ∧ t.sTab = s.sTab ∧ t.key = s.key ∧ t.aIn = s.aIn ∧ t.bIn = s.bIn

/-- The engine's round trip (42_block_cipher.md R161 through R152 and R156): encrypt the input block, hand the result back
as the input, decrypt: the low w bits of the first input return. -/
def Obligations.EngineDecryptsWhatItEncrypted : Prop :=
  ∀ (s : State) (w : Width), s.Inv → s.busy = false → s.valid = true → s.ctxW.toNat = w.bits → ∃ s₁ t t₁ u,
    exec .encrypt s = .next s₁ ∧ microSteps (1 + s.ctxR.toNat) s₁ = .next t ∧
    exec .decrypt { t with aIn := t.aOut, bIn := t.bOut } = .next t₁ ∧
    microSteps (s.ctxR.toNat + 1) t₁ = .next u ∧ u.phase = .idle ∧
    u.aOut.toNat = s.aIn.toNat % 2 ^ w.bits ∧ u.bOut.toNat = s.bIn.toNat % 2 ^ w.bits

/-- 42_block_cipher.md R165: the result of a block command depends only on its latched words and the context, whatever Host
accesses are interleaved; with no reset in the schedule the command ends after a bounded number of events (the fairness of
70_reset_and_hazards.md R209, in the model's form, log 5). -/
def Obligations.BlockResultUnderAnyInterleaving : Prop :=
  ∀ (s s₁ : State) (w : Width) (i : Instr), s.Inv → s.busy = false → s.valid = true → s.ctxW.toNat = w.bits →
    i = .encrypt ∨ i = .decrypt → Turn.reset ∉ s.schedule → exec i s = .next s₁ → ∃ n t,
    n ≤ s.schedule.length + (1 + s.ctxR.toNat) ∧ runSteps n s₁ = .next t ∧
    (∀ m, m < n → ∃ u, runSteps m s₁ = .next u ∧ u.phase ≠ .idle ∧ u.aOut = s.aOut ∧ u.bOut = s.bOut) ∧
    t.phase = .idle ∧ t.done = true ∧ t.err = .noError ∧ t.lastOp = i.op ∧
    (t.aOut, t.bOut) =
      (if i = .encrypt then encryptBlock w s.sTab.read s.ctxR.toNat (lowBits w.bits s.aIn, lowBits w.bits s.bIn)
       else decryptBlock w s.sTab.read s.ctxR.toNat (lowBits w.bits s.aIn, lowBits w.bits s.bIn))

/-! The whole machine. -/

/-- Every step keeps the invariant: the tables stay canonical and in bounds, CTX is 0 with no context, a context is legal
and its words fit, and a command in progress has legal latched parameters and indices in range. -/
def Obligations.EveryStepKeepsTheInvariant : Prop :=
  ∀ s t : State, s.Inv → step s = .next t → t.Inv

/-- The state after reset meets both invariants, for every legal R_MAX (with the values the model names for what reset
leaves unspecified, log 2 and log 3). -/
def Obligations.ResetMeetsTheInvariants : Prop :=
  (∀ rMax : BitVec 16, 32 ≤ rMax.toNat → (State.resetWith rMax).Inv ∧ (State.resetWith rMax).KeyInv) ∧
  State.reset.Inv ∧ State.reset.KeyInv

/-- The engine never stops (60_exceptions.md R180): from a state that meets the invariant, whatever the Host does and
however events interleave, no run ends in a fault or a refusal. -/
def Obligations.NoRunEverStops : Prop :=
  ∀ s : State, s.Inv → s.Safe

/-- 10_state.md R42 as an invariant: a held context is the key schedule of some key of at most 255 bytes for its own width
and round count, and a BUILD in progress is on the way to one. -/
def Obligations.HeldContextIsAKeySchedule : Prop :=
  ∀ s t : State, s.Inv → s.KeyInv → step s = .next t → t.KeyInv

/-- 20_memory.md R77: once a context is held, a step leaves the table and CTX as they are, unless it is a reset or the
Host's write of a BUILD or CLEAR word to an idle engine. -/
def Obligations.ContextIsReadOnly : Prop :=
  ∀ s t : State, s.Inv → s.valid = true → step s = .next t →
    (t.valid = true ∧ t.sTab = s.sTab ∧ t.ctxW = s.ctxW ∧ t.ctxR = s.ctxR) ∨ s.turn = .reset ∨
    ∃ cw, s.presents cw ∧ (decode cw = .ok .build ∨ decode cw = .ok .clear)

/-- 42_block_cipher.md R160 (with 10_state.md R30, R31): the completion of a block command, in the micro-step that returns
to IDLE; and that A_OUT and B_OUT change only then, both in that step, by CLEAR, and by reset. -/
def Obligations.OutputsChangeOnlyAtCompletion : Prop :=
  (∀ s t : State, s.phase = .encPre ∨ s.phase = .encRound ∨ s.phase = .decRound ∨ s.phase = .decPost →
    microStep s = .next t →
    (t.phase = .idle → t.aOut.toNat = t.wa.toNat % 2 ^ s.opw.toNat ∧ t.bOut.toNat = t.wb.toNat % 2 ^ s.opw.toNat ∧
      t.done = true) ∧
    (t.phase ≠ .idle → t.aOut = s.aOut ∧ t.bOut = s.bOut)) ∧
  ∀ s t : State, step s = .next t →
    (t.aOut = s.aOut ∧ t.bOut = s.bOut) ∨ (t.aOut = 0 ∧ t.bOut = 0 ∧ s.turn = .reset) ∨
    (t.aOut = 0 ∧ t.bOut = 0 ∧ ∃ cw, s.presents cw ∧ decode cw = .ok .clear) ∨
    (s.turn = .engine ∧ (s.phase = .encPre ∨ s.phase = .encRound ∨ s.phase = .decPost) ∧ t.phase = .idle ∧
      t.done = true)

/-- 70_reset_and_hazards.md R206: Host accesses while BUSY = 1 leave everything the running command works on, and a
micro-step neither reads nor writes what the Host may write meanwhile. -/
def Obligations.HostAccessesLeaveTheRunningCommand : Prop :=
  (∀ s t : State, s.busy = true → hostStep s = .next t → t.enginePart = s.enginePart) ∧
  ∀ s : State, microStep s.enginePart = mapNext State.enginePart (microStep s)

/-- The frame of a micro-step (41_key_schedule.md R133, R134, 42_block_cipher.md R154 to R159): what it leaves, every entry
of S and L among it but the one its phase writes. That a BUILD leaves the entries of S from t on and of L from c on is the
model's choice (log 16). -/
def Obligations.MicroStepFrame : Prop :=
  ∀ s t : State, microStep s = .next t →
    (t.rMax = s.rMax ∧ t.cfgW = s.cfgW ∧ t.cfgB = s.cfgB ∧ t.cfgR = s.cfgR ∧ t.aIn = s.aIn ∧ t.bIn = s.bIn ∧
      t.sIndex = s.sIndex ∧ t.key = s.key ∧ t.overrun = s.overrun ∧ t.err = s.err ∧ t.lastOp = s.lastOp ∧
      t.opw = s.opw ∧ t.opr = s.opr ∧ t.opt = s.opt ∧ t.opc = s.opc ∧
      t.program = s.program ∧ t.schedule = s.schedule ∧ t.busResult = s.busResult) ∧
    (t.phase ≠ .idle → t.done = s.done ∧ t.aOut = s.aOut ∧ t.bOut = s.bOut ∧ t.valid = s.valid ∧
      t.ctxW = s.ctxW ∧ t.ctxR = s.ctxR) ∧
    (s.phase ≠ .ksInit → s.phase ≠ .ksMix →
      t.valid = s.valid ∧ t.ctxW = s.ctxW ∧ t.ctxR = s.ctxR ∧ t.wi = s.wi ∧ t.wj = s.wj ∧
      ∀ a, t.sTab.read a = s.sTab.read a ∧ t.lArr.read a = s.lArr.read a) ∧
    (s.phase = .ksInit → t.lArr = s.lArr ∧ ∃ v, t.sTab = s.sTab.write s.k.toNat v) ∧
    (s.phase = .ksMix → (∃ a, t.sTab = s.sTab.write s.wi.toNat a) ∧
      ((t.phase = .ksMix ∧ ∃ b, t.lArr = s.lArr.write s.wj.toNat b) ∨ (t.phase = .idle ∧ t.lArr = []))) ∧
    (s.phase = .ksInit → s.sTab.wf = true →
      (∀ a, a ≠ s.k.toNat → t.sTab.read a = s.sTab.read a) ∧ ∀ a, t.lArr.read a = s.lArr.read a) ∧
    (s.phase = .ksMix → s.sTab.wf = true → s.lArr.wf = true → t.aOut = s.aOut ∧ t.bOut = s.bOut ∧
      (∀ a, a ≠ s.wi.toNat → t.sTab.read a = s.sTab.read a) ∧
      (t.phase = .ksMix → ∀ a, a ≠ s.wj.toNat → t.lArr.read a = s.lArr.read a))

/-- 70_reset_and_hazards.md R210: the micro-step counts, and that a command in progress ends after exactly that many. -/
def Obligations.EveryCommandEndsAfterItsStepCount : Prop :=
  (∀ s : State, s.Inv → ∃ t, microSteps s.remaining s = .next t ∧ t.phase = .idle ∧
    ∀ m, m < s.remaining → ∃ u, microSteps m s = .next u ∧ u.phase ≠ .idle) ∧
  (∀ (s t : State) (w : Width), s.busy = false → s.cfgW.toNat = w.bits → s.cfgB.toNat ≤ 255 →
    s.cfgR.toNat ≤ s.rMax.toNat → exec .build s = .next t →
    t.remaining = (2 * s.cfgR.toNat + 2) + 3 * max (2 * s.cfgR.toNat + 2) (wordCount w s.cfgB.toNat)) ∧
  (∀ s t : State, s.busy = false → s.valid = true → exec .encrypt s = .next t → t.remaining = 1 + s.ctxR.toNat) ∧
  (∀ s t : State, s.busy = false → s.valid = true → exec .decrypt s = .next t → t.remaining = s.ctxR.toNat + 1) ∧
  (∀ (i : Instr) (s t : State), i = .nop ∨ i = .clear → exec i s = .next t → t.remaining = s.remaining) ∧
  (∀ (i : Instr) (s t : State), s.busy = false → exec i s = .next t → t.err ≠ .noError → t.remaining = 0) ∧
  ∀ (i : Instr) (s t : State), s.busy = true → exec i s = .next t → t.remaining = s.remaining

/-- POLL ends (30_encoding.md R100, 70_reset_and_hazards.md R209): with the schedule run out, a Host that polls goes on
after the command in progress has ended, one read later, and what it read is the STATUS of an idle engine. That the Engine
moves first once the schedule has run out is the model's choice (log 5). -/
def Obligations.PollEnds : Prop :=
  ∀ (s : State) (rest : List HostOp), s.Inv → s.schedule = [] → s.program = .poll :: rest → ∃ t,
    runSteps (s.remaining + 1) s = .next t ∧ t.program = rest ∧ t.busy = false ∧
    t.busResult = some (.read t.statusWord .okay)

/-- Internal state that reset leaves unspecified is never read before it is written (10_state.md R46,
70_reset_and_hazards.md R200): two runs that start alike but for it stay alike, in every register the Host can read and in
every bus response. The values the model names for it (log 2, log 3) are then of no consequence. -/
def Obligations.UnspecifiedStateIsNeverRead : Prop :=
  (∀ s t : State, s.Inv → t.Inv → s.Agree t → ∃ s' t', step s = .next s' ∧ step t = .next t' ∧ s'.Agree t') ∧
  (∀ s t : State, s.phase = .idle → s.valid = false → s.specifiedPart = t.specifiedPart → s.Agree t) ∧
  ∀ (s t : State) (off : BitVec 12) (size : Nat), s.Agree t → busReadResult off size s = busReadResult off size t

/-- 70_reset_and_hazards.md R208: while a BUILD runs the Host sees no context, and a BUILD that fails keeps the old one. -/
def Obligations.ContextIsHiddenDuringBuild : Prop :=
  (∀ s : State, s.Inv → s.phase = .ksInit ∨ s.phase = .ksMix →
    (busReadResult 0x020 8 s).1.getLsbD 1 = false ∧ busReadResult 0x028 8 s = (0, .okay) ∧
    busReadResult 0x058 8 s = (0, .okay)) ∧
  ∀ s t : State, s.busy = false → exec .build s = .next t → t.phase = .idle →
    t.valid = s.valid ∧ t.ctxW = s.ctxW ∧ t.ctxR = s.ctxR ∧ t.sTab = s.sTab ∧ t.err ≠ .noError
end

