-- ==== Sys2Proof/Laws/Datapath.lean ====
section
/-! SUPPORT. What each datapath primitive computes, as a number: later proofs cite these and unfold none. -/

namespace Sys2Proof

@[simp] theorem Width.bits_w16 : Width.w16.bits = 16 := rfl
@[simp] theorem Width.bits_w32 : Width.w32.bits = 32 := rfl
@[simp] theorem Width.bits_w64 : Width.w64.bits = 64 := rfl

theorem Width.bits_pos (w : Width) : 0 < w.bits := by cases w <;> decide

theorem Width.bits_le (w : Width) : w.bits ≤ 64 := by cases w <;> decide

theorem Width.bytes_pos (w : Width) : 0 < w.bytes := by cases w <;> decide

theorem Width.bits_eq (w : Width) : w.bits = 8 * w.bytes := by cases w <;> rfl

theorem Width.two_pow_le (w : Width) : 2 ^ w.bits ≤ 2 ^ 64 := Nat.pow_le_pow_right (by decide) w.bits_le

/-- A number reduced modulo `2 ^ w` fits in a storage element. -/
theorem Width.mod_lt_element (w : Width) (n : Nat) : n % 2 ^ w.bits < 2 ^ 64 :=
  Nat.lt_of_lt_of_le (Nat.mod_lt _ (Nat.two_pow_pos _)) w.two_pow_le

namespace Machine

theorem addW_toNat (w : Width) (x y : Word) : (addW w x y).toNat = (x.toNat + y.toNat) % 2 ^ w.bits := by
  simp only [addW, BitVec.toNat_ofNat]
  exact Nat.mod_eq_of_lt (w.mod_lt_element _)

theorem subW_toNat (w : Width) (x y : Word) :
    (subW w x y).toNat = (x.toNat + 2 ^ w.bits - y.toNat) % 2 ^ w.bits := by
  simp only [subW, BitVec.toNat_ofNat]
  exact Nat.mod_eq_of_lt (w.mod_lt_element _)

theorem lowBits_toNat {n : Nat} (h : n ≤ 64) (v : Word) : (lowBits n v).toNat = v.toNat % 2 ^ n := by
  simp only [lowBits, BitVec.toNat_ofNat]
  exact Nat.mod_eq_of_lt (Nat.lt_of_lt_of_le (Nat.mod_lt _ (Nat.two_pow_pos _)) (Nat.pow_le_pow_right (by decide) h))

/-- Only `n mod w` matters (40_datapath.md R114). -/
theorem rotlW_mod (w : Width) (x : Word) (n : Nat) : rotlW w x (n % w.bits) = rotlW w x n := by
  simp [rotlW]

theorem rotrW_mod (w : Width) (x : Word) (n : Nat) : rotrW w x (n % w.bits) = rotrW w x n := by
  simp [rotrW]

/-- A rotation by a proper amount, as a number. -/
theorem rotlW_toNat (w : Width) (x : Word) {n : Nat} (h0 : 0 < n) (hn : n < w.bits) :
    (rotlW w x n).toNat = (x.toNat <<< n + x.toNat >>> (w.bits - n)) % 2 ^ w.bits := by
  simp only [rotlW, Nat.mod_eq_of_lt hn, if_neg (show ¬ n = 0 by omega), BitVec.toNat_ofNat]
  exact Nat.mod_eq_of_lt (w.mod_lt_element _)

theorem rotrW_toNat (w : Width) (x : Word) {n : Nat} (h0 : 0 < n) (hn : n < w.bits) :
    (rotrW w x n).toNat = (x.toNat >>> n + x.toNat <<< (w.bits - n)) % 2 ^ w.bits := by
  simp only [rotrW, Nat.mod_eq_of_lt hn, if_neg (show ¬ n = 0 by omega), BitVec.toNat_ofNat]
  exact Nat.mod_eq_of_lt (w.mod_lt_element _)

/-- A rotated word is a word. -/
theorem rotlW_lt (w : Width) {x : Word} (h : x.toNat < 2 ^ w.bits) (n : Nat) : (rotlW w x n).toNat < 2 ^ w.bits := by
  rw [← rotlW_mod]
  by_cases h0 : n % w.bits = 0
  · simpa [rotlW, h0] using h
  · rw [rotlW_toNat w x (Nat.pos_of_ne_zero h0) (Nat.mod_lt _ w.bits_pos)]
    exact Nat.mod_lt _ (Nat.two_pow_pos _)

theorem rotrW_lt (w : Width) {x : Word} (h : x.toNat < 2 ^ w.bits) (n : Nat) : (rotrW w x n).toNat < 2 ^ w.bits := by
  rw [← rotrW_mod]
  by_cases h0 : n % w.bits = 0
  · simpa [rotrW, h0] using h
  · rw [rotrW_toNat w x (Nat.pos_of_ne_zero h0) (Nat.mod_lt _ w.bits_pos)]
    exact Nat.mod_lt _ (Nat.two_pow_pos _)

theorem addW_lt (w : Width) (x y : Word) : (addW w x y).toNat < 2 ^ w.bits := by
  rw [addW_toNat]
  exact Nat.mod_lt _ (Nat.two_pow_pos _)

theorem subW_lt (w : Width) (x y : Word) : (subW w x y).toNat < 2 ^ w.bits := by
  rw [subW_toNat]
  exact Nat.mod_lt _ (Nat.two_pow_pos _)

theorem xor_lt {n : Nat} {x y : Word} (hx : x.toNat < 2 ^ n) (hy : y.toNat < 2 ^ n) : (x ^^^ y).toNat < 2 ^ n := by
  rw [BitVec.toNat_xor]
  exact Nat.xor_lt_two_pow hx hy

/-- One more pass at the end of the mixing loop. -/
theorem mixSteps_succ (w : Width) (n : Nat) (m : Mix) : mixSteps w (n + 1) m = mixStep w (mixSteps w n m) := by
  induction n generalizing m with
  | zero => rfl
  | succ n ih => exact ih (mixStep w m)

@[simp] theorem mixStep_s_length (w : Width) (m : Mix) : (mixStep w m).s.length = m.s.length := by simp [mixStep]

@[simp] theorem mixStep_l_length (w : Width) (m : Mix) : (mixStep w m).l.length = m.l.length := by simp [mixStep]

@[simp] theorem mixSteps_s_length (w : Width) (n : Nat) (m : Mix) : (mixSteps w n m).s.length = m.s.length := by
  induction n with
  | zero => rfl
  | succ n ih => rw [mixSteps_succ, mixStep_s_length, ih]

@[simp] theorem mixSteps_l_length (w : Width) (n : Nat) (m : Mix) : (mixSteps w n m).l.length = m.l.length := by
  induction n with
  | zero => rfl
  | succ n ih => rw [mixSteps_succ, mixStep_l_length, ih]

end Machine

end Sys2Proof
end

