-- ==== Sys2Proof/Laws/Memory.lean ====
section
/-! SUPPORT. The laws of the tables: reading after writing, and that every operation keeps the canonical form and the
bounds. -/

namespace Sys2Proof.Machine

@[simp] theorem Memory.read_nil (a : Nat) : Memory.read [] a = 0 := rfl

@[simp] theorem Memory.read_zero (a : Nat) : Memory.zero.read a = 0 := rfl

@[simp] theorem Memory.wf_zero : Memory.zero.wf = true := rfl

@[simp] theorem Memory.within_zero (n : Nat) : Memory.within n Memory.zero = true := rfl

theorem Memory.wf_cons (a : Nat) (v : Word) (m : Memory) :
    Memory.wf ((a, v) :: m) = true ↔ v ≠ 0 ∧ (∀ c ∈ m, a < c.1) ∧ Memory.wf m = true := by
  simp [Memory.wf]

theorem Memory.within_cons (n a : Nat) (v : Word) (m : Memory) :
    Memory.within n ((a, v) :: m) = true ↔ a < n ∧ Memory.within n m = true := by
  simp [Memory.within]

/-- An index below every listed one reads 0. -/
theorem Memory.read_eq_zero_of_lt {m : Memory} {a : Nat} (h : ∀ c ∈ m, a < c.1) : m.read a = 0 := by
  induction m with
  | nil => rfl
  | cons c m ih =>
    obtain ⟨b, v⟩ := c
    have hb : a < b := h (b, v) (by simp)
    simp only [Memory.read, if_neg (show ¬ a = b by omega)]
    exact ih fun d hd => h d (by simp [hd])

/-- A write lists nothing but what was listed and its own index. -/
theorem Memory.mem_write {m : Memory} {a : Nat} {v : Word} {c : Nat × Word} (h : c ∈ m.write a v) :
    c ∈ m ∨ c.1 = a := by
  induction m with
  | nil =>
    by_cases hv : v = 0 <;> simp_all [Memory.write]
  | cons d m ih =>
    obtain ⟨b, u⟩ := d
    simp only [Memory.write] at h
    split at h
    · split at h
      · exact .inl h
      · rcases List.mem_cons.1 h with rfl | h
        · exact .inr rfl
        · exact .inl h
    · split at h
      · split at h
        · exact .inl (List.mem_cons_of_mem _ h)
        · rcases List.mem_cons.1 h with rfl | h
          · exact .inr rfl
          · exact .inl (List.mem_cons_of_mem _ h)
      · rcases List.mem_cons.1 h with rfl | h
        · exact .inl (by simp)
        · exact (ih h).imp (List.mem_cons_of_mem _) id

/-- A write keeps the canonical form. -/
theorem Memory.wf_write {m : Memory} (h : m.wf = true) (a : Nat) (v : Word) : (m.write a v).wf = true := by
  induction m with
  | nil =>
    simp only [Memory.write]
    split
    · rfl
    · rename_i hv
      exact (Memory.wf_cons _ _ _).2 ⟨hv, by simp, rfl⟩
  | cons d m ih =>
    obtain ⟨b, u⟩ := d
    obtain ⟨hu, hlt, hm⟩ := (Memory.wf_cons b u m).1 h
    simp only [Memory.write]
    split
    · rename_i hab
      split
      · exact h
      · rename_i hv
        refine (Memory.wf_cons _ _ _).2 ⟨hv, fun c hc => ?_, h⟩
        rcases List.mem_cons.1 hc with rfl | hc
        · exact hab
        · exact Nat.lt_trans hab (hlt c hc)
    · split
      · rename_i hab
        subst hab
        split
        · exact hm
        · rename_i hv
          exact (Memory.wf_cons _ _ _).2 ⟨hv, hlt, hm⟩
      · refine (Memory.wf_cons _ _ _).2 ⟨hu, fun c hc => ?_, ih hm⟩
        rcases Memory.mem_write hc with hc | hc
        · exact hlt c hc
        · omega

/-- A write below the bound keeps the table within it. -/
theorem Memory.within_write {n : Nat} {m : Memory} (h : m.within n = true) {a : Nat} (ha : a < n) (v : Word) :
    (m.write a v).within n = true := by
  simp only [Memory.within, List.all_eq_true, decide_eq_true_eq] at h ⊢
  intro c hc
  rcases Memory.mem_write hc with hc | hc
  · exact h c hc
  · omega

/-- Reading after a write: the value at its index, what stood there at every other. -/
theorem Memory.read_write {m : Memory} (h : m.wf = true) (a : Nat) (v : Word) (b : Nat) :
    (m.write a v).read b = if b = a then v else m.read b := by
  induction m with
  | nil =>
    simp only [Memory.write]
    split
    · rename_i hv
      simp [hv]
    · rfl
  | cons d m ih =>
    obtain ⟨e, u⟩ := d
    obtain ⟨hu, hlt, hm⟩ := (Memory.wf_cons e u m).1 h
    simp only [Memory.write]
    split
    · rename_i hae
      split
      · rename_i hv
        subst hv
        split
        · rename_i hb
          subst hb
          refine Memory.read_eq_zero_of_lt fun c hc => ?_
          rcases List.mem_cons.1 hc with rfl | hc
          · exact hae
          · exact Nat.lt_trans hae (hlt c hc)
        · rfl
      · rfl
    · split
      · rename_i hae
        subst hae
        split
        · rename_i hv
          subst hv
          split
          · rename_i hb
            subst hb
            exact Memory.read_eq_zero_of_lt hlt
          · rename_i hb
            simp [Memory.read, hb]
        · by_cases hb : b = a <;> simp [Memory.read, hb]
      · rename_i hae hne
        simp only [Memory.read, ih hm]
        by_cases hbe : b = e
        · simp [hbe, show ¬ e = a by omega]
        · simp [hbe]

theorem Memory.wf_writeFrom {m : Memory} (h : m.wf = true) (a : Nat) (vs : List Word) :
    (m.writeFrom a vs).wf = true := by
  induction vs generalizing m a with
  | nil => exact h
  | cons v vs ih => exact ih (Memory.wf_write h a v) (a + 1)

theorem Memory.within_writeFrom {n : Nat} {m : Memory} (h : m.within n = true) (a : Nat) (vs : List Word)
    (hle : a + vs.length ≤ n) : (m.writeFrom a vs).within n = true := by
  induction vs generalizing m a with
  | nil => exact h
  | cons v vs ih =>
    simp only [List.length_cons] at hle
    exact ih (Memory.within_write h (by omega) v) (a + 1) (by omega)

/-- Reading after a run of writes: the value at each index of the run, what stood there at every other. -/
theorem Memory.read_writeFrom {m : Memory} (h : m.wf = true) (a : Nat) (vs : List Word) (b : Nat) :
    (m.writeFrom a vs).read b = if a ≤ b ∧ b < a + vs.length then vs.getD (b - a) 0 else m.read b := by
  induction vs generalizing m a with
  | nil => simp [Memory.writeFrom, show ¬ (a ≤ b ∧ b < a) by omega]
  | cons v vs ih =>
    simp only [Memory.writeFrom, ih (Memory.wf_write h a v), Memory.read_write h, List.length_cons]
    by_cases hb : b = a
    · subst hb
      simp
    · by_cases hin : a + 1 ≤ b ∧ b < a + 1 + vs.length
      · obtain ⟨d, rfl⟩ : ∃ d, b = a + 1 + d := ⟨b - (a + 1), by omega⟩
        have e1 : a + 1 + d - (a + 1) = d := by omega
        have e2 : a + 1 + d - a = d + 1 := by omega
        simp only [if_pos hin, if_pos (show a ≤ a + 1 + d ∧ a + 1 + d < a + (vs.length + 1) by omega), e1, e2,
          List.getD_cons_succ]
      · simp only [if_neg hin, if_neg hb, if_neg (show ¬ (a ≤ b ∧ b < a + (vs.length + 1)) by omega)]

/-- Two tables in canonical form that read alike are the same data. -/
theorem Memory.ext_read {m m' : Memory} (h : m.wf = true) (h' : m'.wf = true) (e : ∀ a, m.read a = m'.read a) :
    m = m' := by
  induction m generalizing m' with
  | nil =>
    cases m' with
    | nil => rfl
    | cons c m' =>
      obtain ⟨b, v⟩ := c
      exact absurd (e b).symm (by simpa [Memory.read] using ((Memory.wf_cons b v m').1 h').1)
  | cons c m ih =>
    obtain ⟨a, u⟩ := c
    obtain ⟨hu, hlt, hm⟩ := (Memory.wf_cons a u m).1 h
    cases m' with
    | nil => exact absurd (e a) (by simpa [Memory.read] using hu)
    | cons c' m' =>
      obtain ⟨b, v⟩ := c'
      obtain ⟨hv, hlt', hm'⟩ := (Memory.wf_cons b v m').1 h'
      have ha := e a
      have hb := e b
      simp only [Memory.read, if_true] at ha hb
      have hab : a = b := by
        rcases Nat.lt_trichotomy a b with hl | hl | hl
        · rw [if_neg (by omega), Memory.read_eq_zero_of_lt fun c hc => Nat.lt_trans hl (hlt' c hc)] at ha
          exact absurd ha hu
        · exact hl
        · rw [if_neg (by omega), Memory.read_eq_zero_of_lt fun c hc => Nat.lt_trans hl (hlt c hc)] at hb
          exact absurd hb.symm hv
      subst hab
      rw [if_pos rfl] at ha
      subst ha
      rw [ih hm hm' fun d => ?_]
      by_cases hd : d = a
      · subst hd
        rw [Memory.read_eq_zero_of_lt hlt, Memory.read_eq_zero_of_lt hlt']
      · simpa [Memory.read, hd] using e d

/-- The tables after reset are in canonical form and within their bounds. -/
theorem resetWith_tablesOk (rMax : BitVec 16) : (State.resetWith rMax).tablesOk :=
  ⟨rfl, rfl, rfl, rfl, rfl, rfl⟩

end Sys2Proof.Machine
end

