-- ==== Sys2Proof/Laws/Operands.lean ====
section
/-! SUPPORT. The laws of operand assembly: widths from fields, the counts t and c, key bytes and key words. -/

namespace Sys2Proof.Machine

/-- A field selects the width whose number of bits it holds, and no other value selects one (10_state.md R24). -/
theorem Width.ofField_eq_some {v : BitVec 8} {w : Width} : Width.ofField v = some w ↔ v.toNat = w.bits := by
  constructor
  · intro h
    simp only [Width.ofField] at h
    split at h
    · cases h
      simp [*]
    · split at h
      · cases h
        simp [*]
      · split at h
        · cases h
          simp [*]
        · cases h
  · intro h
    have e : v = BitVec.ofNat 8 w.bits := by
      apply BitVec.eq_of_toNat_eq
      rw [h]
      cases w <;> rfl
    subst e
    cases w <;> rfl

theorem Width.ofField_eq_none {v : BitVec 8} :
    Width.ofField v = none ↔ v.toNat ≠ 16 ∧ v.toNat ≠ 32 ∧ v.toNat ≠ 64 := by
  constructor
  · intro h
    refine ⟨fun e => ?_, fun e => ?_, fun e => ?_⟩
    · simp [Width.ofField_eq_some.2 (show v.toNat = Width.w16.bits from e)] at h
    · simp [Width.ofField_eq_some.2 (show v.toNat = Width.w32.bits from e)] at h
    · simp [Width.ofField_eq_some.2 (show v.toNat = Width.w64.bits from e)] at h
  · intro ⟨h1, h2, h3⟩
    cases h : Width.ofField v with
    | none => rfl
    | some w =>
      have := Width.ofField_eq_some.1 h
      cases w <;> simp_all

theorem wordCount_pos (w : Width) (b : Nat) : 1 ≤ wordCount w b := Nat.le_max_left _ _

/-- A legal key has at most LMAX words (00_scope.md R8). -/
theorem wordCount_le {w : Width} {b : Nat} (h : b ≤ Config.keyMax) : wordCount w b ≤ Config.lMax := by
  simp only [Config.keyMax] at h
  cases w <;> simp only [wordCount, Width.bytes, Width.bits, Config.lMax] <;> omega

@[simp] theorem keyBytes_length (key : Memory) (b : Nat) : (keyBytes key b).length = b := by simp [keyBytes]

@[simp] theorem keyWords_length (w : Width) (bytes : List Byte) :
    (keyWords w bytes).length = wordCount w bytes.length := by simp [keyWords]

theorem keyWords_getD {w : Width} {bytes : List Byte} {q : Nat} (h : q < wordCount w bytes.length) :
    (keyWords w bytes).getD q 0 = BitVec.ofNat 64 (packLE ((bytes.drop (q * w.bytes)).take w.bytes)) := by
  simp [keyWords, List.getD_eq_getElem?_getD, h]

theorem packLE_lt (bs : List Byte) : packLE bs < 256 ^ bs.length := by
  induction bs with
  | nil => simp [packLE]
  | cons b bs ih =>
    have := b.isLt
    simp only [packLE, List.length_cons, Nat.pow_succ]
    omega

/-- The bytes of one key word make a word. -/
theorem packLE_take_lt (w : Width) (bs : List Byte) : packLE (bs.take w.bytes) < 2 ^ w.bits := by
  refine Nat.lt_of_lt_of_le (packLE_lt _) ?_
  rw [w.bits_eq, Nat.pow_mul]
  exact Nat.pow_le_pow_right (by decide) (by simp)

/-- The fields of a CFG, STATUS, CTX or CAP word do not depend on what the Host still has to do. -/
@[simp] theorem statusWord_program (p : List HostOp) (s : State) :
    State.statusWord { s with program := p } = s.statusWord := rfl

@[simp] theorem tableLength_eq (r : Nat) : tableLength r = 2 * r + 2 := rfl

end Sys2Proof.Machine
end

