-- ==== Sys2Proof/Laws/PerInstr.lean ====
section
/-! SUPPORT. What holds of each command as syntax, one lemma per constructor: it is well formed, and its word has a zero
RES field and an OP below 5 (30_encoding.md R90, R91). -/

namespace Sys2Proof.Laws.CommandWord

def Statement (i : Instr) : Prop := i.wellFormed = true ∧ resField (encode i) = 0 ∧ (opField (encode i)).toNat < 5

theorem nop : Statement .nop := ⟨by decide, by decide, by decide⟩
theorem build : Statement .build := ⟨by decide, by decide, by decide⟩
theorem encrypt : Statement .encrypt := ⟨by decide, by decide, by decide⟩
theorem decrypt : Statement .decrypt := ⟨by decide, by decide, by decide⟩
theorem clear : Statement .clear := ⟨by decide, by decide, by decide⟩

end Sys2Proof.Laws.CommandWord
end

