-- ==== Sys2Proof/Laws/State.lean ====
section
/-! SUPPORT. One lemma per field for each named update of the state, so that no later proof unfolds one. -/

namespace Sys2Proof.Machine

@[simp] theorem State.recordError_rMax (c : ErrCode) (op : BitVec 4) (s : State) : (State.recordError c op s).rMax = s.rMax := rfl
@[simp] theorem State.recordError_cfgW (c : ErrCode) (op : BitVec 4) (s : State) : (State.recordError c op s).cfgW = s.cfgW := rfl
@[simp] theorem State.recordError_cfgB (c : ErrCode) (op : BitVec 4) (s : State) : (State.recordError c op s).cfgB = s.cfgB := rfl
@[simp] theorem State.recordError_cfgR (c : ErrCode) (op : BitVec 4) (s : State) : (State.recordError c op s).cfgR = s.cfgR := rfl
@[simp] theorem State.recordError_valid (c : ErrCode) (op : BitVec 4) (s : State) : (State.recordError c op s).valid = s.valid := rfl
@[simp] theorem State.recordError_done (c : ErrCode) (op : BitVec 4) (s : State) : (State.recordError c op s).done = true := rfl
@[simp] theorem State.recordError_overrun (c : ErrCode) (op : BitVec 4) (s : State) : (State.recordError c op s).overrun = false := rfl
@[simp] theorem State.recordError_err (c : ErrCode) (op : BitVec 4) (s : State) : (State.recordError c op s).err = c := rfl
@[simp] theorem State.recordError_lastOp (c : ErrCode) (op : BitVec 4) (s : State) : (State.recordError c op s).lastOp = op := rfl
@[simp] theorem State.recordError_ctxW (c : ErrCode) (op : BitVec 4) (s : State) : (State.recordError c op s).ctxW = s.ctxW := rfl
@[simp] theorem State.recordError_ctxR (c : ErrCode) (op : BitVec 4) (s : State) : (State.recordError c op s).ctxR = s.ctxR := rfl
@[simp] theorem State.recordError_aIn (c : ErrCode) (op : BitVec 4) (s : State) : (State.recordError c op s).aIn = s.aIn := rfl
@[simp] theorem State.recordError_bIn (c : ErrCode) (op : BitVec 4) (s : State) : (State.recordError c op s).bIn = s.bIn := rfl
@[simp] theorem State.recordError_aOut (c : ErrCode) (op : BitVec 4) (s : State) : (State.recordError c op s).aOut = s.aOut := rfl
@[simp] theorem State.recordError_bOut (c : ErrCode) (op : BitVec 4) (s : State) : (State.recordError c op s).bOut = s.bOut := rfl
@[simp] theorem State.recordError_sIndex (c : ErrCode) (op : BitVec 4) (s : State) : (State.recordError c op s).sIndex = s.sIndex := rfl
@[simp] theorem State.recordError_key (c : ErrCode) (op : BitVec 4) (s : State) : (State.recordError c op s).key = s.key := rfl
@[simp] theorem State.recordError_phase (c : ErrCode) (op : BitVec 4) (s : State) : (State.recordError c op s).phase = s.phase := rfl
@[simp] theorem State.recordError_k (c : ErrCode) (op : BitVec 4) (s : State) : (State.recordError c op s).k = s.k := rfl
@[simp] theorem State.recordError_opw (c : ErrCode) (op : BitVec 4) (s : State) : (State.recordError c op s).opw = s.opw := rfl
@[simp] theorem State.recordError_opr (c : ErrCode) (op : BitVec 4) (s : State) : (State.recordError c op s).opr = s.opr := rfl
@[simp] theorem State.recordError_opt (c : ErrCode) (op : BitVec 4) (s : State) : (State.recordError c op s).opt = s.opt := rfl
@[simp] theorem State.recordError_opc (c : ErrCode) (op : BitVec 4) (s : State) : (State.recordError c op s).opc = s.opc := rfl
@[simp] theorem State.recordError_wa (c : ErrCode) (op : BitVec 4) (s : State) : (State.recordError c op s).wa = s.wa := rfl
@[simp] theorem State.recordError_wb (c : ErrCode) (op : BitVec 4) (s : State) : (State.recordError c op s).wb = s.wb := rfl
@[simp] theorem State.recordError_wi (c : ErrCode) (op : BitVec 4) (s : State) : (State.recordError c op s).wi = s.wi := rfl
@[simp] theorem State.recordError_wj (c : ErrCode) (op : BitVec 4) (s : State) : (State.recordError c op s).wj = s.wj := rfl
@[simp] theorem State.recordError_sTab (c : ErrCode) (op : BitVec 4) (s : State) : (State.recordError c op s).sTab = s.sTab := rfl
@[simp] theorem State.recordError_lArr (c : ErrCode) (op : BitVec 4) (s : State) : (State.recordError c op s).lArr = s.lArr := rfl
@[simp] theorem State.recordError_program (c : ErrCode) (op : BitVec 4) (s : State) : (State.recordError c op s).program = s.program := rfl
@[simp] theorem State.recordError_schedule (c : ErrCode) (op : BitVec 4) (s : State) : (State.recordError c op s).schedule = s.schedule := rfl
@[simp] theorem State.recordError_busResult (c : ErrCode) (op : BitVec 4) (s : State) : (State.recordError c op s).busResult = s.busResult := rfl

@[simp] theorem State.dropCommand_rMax (s : State) : (s.dropCommand).rMax = s.rMax := rfl
@[simp] theorem State.dropCommand_cfgW (s : State) : (s.dropCommand).cfgW = s.cfgW := rfl
@[simp] theorem State.dropCommand_cfgB (s : State) : (s.dropCommand).cfgB = s.cfgB := rfl
@[simp] theorem State.dropCommand_cfgR (s : State) : (s.dropCommand).cfgR = s.cfgR := rfl
@[simp] theorem State.dropCommand_valid (s : State) : (s.dropCommand).valid = s.valid := rfl
@[simp] theorem State.dropCommand_done (s : State) : (s.dropCommand).done = s.done := rfl
@[simp] theorem State.dropCommand_overrun (s : State) : (s.dropCommand).overrun = true := rfl
@[simp] theorem State.dropCommand_err (s : State) : (s.dropCommand).err = s.err := rfl
@[simp] theorem State.dropCommand_lastOp (s : State) : (s.dropCommand).lastOp = s.lastOp := rfl
@[simp] theorem State.dropCommand_ctxW (s : State) : (s.dropCommand).ctxW = s.ctxW := rfl
@[simp] theorem State.dropCommand_ctxR (s : State) : (s.dropCommand).ctxR = s.ctxR := rfl
@[simp] theorem State.dropCommand_aIn (s : State) : (s.dropCommand).aIn = s.aIn := rfl
@[simp] theorem State.dropCommand_bIn (s : State) : (s.dropCommand).bIn = s.bIn := rfl
@[simp] theorem State.dropCommand_aOut (s : State) : (s.dropCommand).aOut = s.aOut := rfl
@[simp] theorem State.dropCommand_bOut (s : State) : (s.dropCommand).bOut = s.bOut := rfl
@[simp] theorem State.dropCommand_sIndex (s : State) : (s.dropCommand).sIndex = s.sIndex := rfl
@[simp] theorem State.dropCommand_key (s : State) : (s.dropCommand).key = s.key := rfl
@[simp] theorem State.dropCommand_phase (s : State) : (s.dropCommand).phase = s.phase := rfl
@[simp] theorem State.dropCommand_k (s : State) : (s.dropCommand).k = s.k := rfl
@[simp] theorem State.dropCommand_opw (s : State) : (s.dropCommand).opw = s.opw := rfl
@[simp] theorem State.dropCommand_opr (s : State) : (s.dropCommand).opr = s.opr := rfl
@[simp] theorem State.dropCommand_opt (s : State) : (s.dropCommand).opt = s.opt := rfl
@[simp] theorem State.dropCommand_opc (s : State) : (s.dropCommand).opc = s.opc := rfl
@[simp] theorem State.dropCommand_wa (s : State) : (s.dropCommand).wa = s.wa := rfl
@[simp] theorem State.dropCommand_wb (s : State) : (s.dropCommand).wb = s.wb := rfl
@[simp] theorem State.dropCommand_wi (s : State) : (s.dropCommand).wi = s.wi := rfl
@[simp] theorem State.dropCommand_wj (s : State) : (s.dropCommand).wj = s.wj := rfl
@[simp] theorem State.dropCommand_sTab (s : State) : (s.dropCommand).sTab = s.sTab := rfl
@[simp] theorem State.dropCommand_lArr (s : State) : (s.dropCommand).lArr = s.lArr := rfl
@[simp] theorem State.dropCommand_program (s : State) : (s.dropCommand).program = s.program := rfl
@[simp] theorem State.dropCommand_schedule (s : State) : (s.dropCommand).schedule = s.schedule := rfl
@[simp] theorem State.dropCommand_busResult (s : State) : (s.dropCommand).busResult = s.busResult := rfl

@[simp] theorem State.acceptStatus_rMax (op : BitVec 4) (s : State) : (State.acceptStatus op s).rMax = s.rMax := rfl
@[simp] theorem State.acceptStatus_cfgW (op : BitVec 4) (s : State) : (State.acceptStatus op s).cfgW = s.cfgW := rfl
@[simp] theorem State.acceptStatus_cfgB (op : BitVec 4) (s : State) : (State.acceptStatus op s).cfgB = s.cfgB := rfl
@[simp] theorem State.acceptStatus_cfgR (op : BitVec 4) (s : State) : (State.acceptStatus op s).cfgR = s.cfgR := rfl
@[simp] theorem State.acceptStatus_valid (op : BitVec 4) (s : State) : (State.acceptStatus op s).valid = s.valid := rfl
@[simp] theorem State.acceptStatus_done (op : BitVec 4) (s : State) : (State.acceptStatus op s).done = false := rfl
@[simp] theorem State.acceptStatus_overrun (op : BitVec 4) (s : State) : (State.acceptStatus op s).overrun = false := rfl
@[simp] theorem State.acceptStatus_err (op : BitVec 4) (s : State) : (State.acceptStatus op s).err = .noError := rfl
@[simp] theorem State.acceptStatus_lastOp (op : BitVec 4) (s : State) : (State.acceptStatus op s).lastOp = op := rfl
@[simp] theorem State.acceptStatus_ctxW (op : BitVec 4) (s : State) : (State.acceptStatus op s).ctxW = s.ctxW := rfl
@[simp] theorem State.acceptStatus_ctxR (op : BitVec 4) (s : State) : (State.acceptStatus op s).ctxR = s.ctxR := rfl
@[simp] theorem State.acceptStatus_aIn (op : BitVec 4) (s : State) : (State.acceptStatus op s).aIn = s.aIn := rfl
@[simp] theorem State.acceptStatus_bIn (op : BitVec 4) (s : State) : (State.acceptStatus op s).bIn = s.bIn := rfl
@[simp] theorem State.acceptStatus_aOut (op : BitVec 4) (s : State) : (State.acceptStatus op s).aOut = s.aOut := rfl
@[simp] theorem State.acceptStatus_bOut (op : BitVec 4) (s : State) : (State.acceptStatus op s).bOut = s.bOut := rfl
@[simp] theorem State.acceptStatus_sIndex (op : BitVec 4) (s : State) : (State.acceptStatus op s).sIndex = s.sIndex := rfl
@[simp] theorem State.acceptStatus_key (op : BitVec 4) (s : State) : (State.acceptStatus op s).key = s.key := rfl
@[simp] theorem State.acceptStatus_phase (op : BitVec 4) (s : State) : (State.acceptStatus op s).phase = s.phase := rfl
@[simp] theorem State.acceptStatus_k (op : BitVec 4) (s : State) : (State.acceptStatus op s).k = s.k := rfl
@[simp] theorem State.acceptStatus_opw (op : BitVec 4) (s : State) : (State.acceptStatus op s).opw = s.opw := rfl
@[simp] theorem State.acceptStatus_opr (op : BitVec 4) (s : State) : (State.acceptStatus op s).opr = s.opr := rfl
@[simp] theorem State.acceptStatus_opt (op : BitVec 4) (s : State) : (State.acceptStatus op s).opt = s.opt := rfl
@[simp] theorem State.acceptStatus_opc (op : BitVec 4) (s : State) : (State.acceptStatus op s).opc = s.opc := rfl
@[simp] theorem State.acceptStatus_wa (op : BitVec 4) (s : State) : (State.acceptStatus op s).wa = s.wa := rfl
@[simp] theorem State.acceptStatus_wb (op : BitVec 4) (s : State) : (State.acceptStatus op s).wb = s.wb := rfl
@[simp] theorem State.acceptStatus_wi (op : BitVec 4) (s : State) : (State.acceptStatus op s).wi = s.wi := rfl
@[simp] theorem State.acceptStatus_wj (op : BitVec 4) (s : State) : (State.acceptStatus op s).wj = s.wj := rfl
@[simp] theorem State.acceptStatus_sTab (op : BitVec 4) (s : State) : (State.acceptStatus op s).sTab = s.sTab := rfl
@[simp] theorem State.acceptStatus_lArr (op : BitVec 4) (s : State) : (State.acceptStatus op s).lArr = s.lArr := rfl
@[simp] theorem State.acceptStatus_program (op : BitVec 4) (s : State) : (State.acceptStatus op s).program = s.program := rfl
@[simp] theorem State.acceptStatus_schedule (op : BitVec 4) (s : State) : (State.acceptStatus op s).schedule = s.schedule := rfl
@[simp] theorem State.acceptStatus_busResult (op : BitVec 4) (s : State) : (State.acceptStatus op s).busResult = s.busResult := rfl

@[simp] theorem State.finish_rMax (s : State) : (s.finish).rMax = s.rMax := rfl
@[simp] theorem State.finish_cfgW (s : State) : (s.finish).cfgW = s.cfgW := rfl
@[simp] theorem State.finish_cfgB (s : State) : (s.finish).cfgB = s.cfgB := rfl
@[simp] theorem State.finish_cfgR (s : State) : (s.finish).cfgR = s.cfgR := rfl
@[simp] theorem State.finish_valid (s : State) : (s.finish).valid = s.valid := rfl
@[simp] theorem State.finish_done (s : State) : (s.finish).done = true := rfl
@[simp] theorem State.finish_overrun (s : State) : (s.finish).overrun = s.overrun := rfl
@[simp] theorem State.finish_err (s : State) : (s.finish).err = s.err := rfl
@[simp] theorem State.finish_lastOp (s : State) : (s.finish).lastOp = s.lastOp := rfl
@[simp] theorem State.finish_ctxW (s : State) : (s.finish).ctxW = s.ctxW := rfl
@[simp] theorem State.finish_ctxR (s : State) : (s.finish).ctxR = s.ctxR := rfl
@[simp] theorem State.finish_aIn (s : State) : (s.finish).aIn = s.aIn := rfl
@[simp] theorem State.finish_bIn (s : State) : (s.finish).bIn = s.bIn := rfl
@[simp] theorem State.finish_aOut (s : State) : (s.finish).aOut = s.aOut := rfl
@[simp] theorem State.finish_bOut (s : State) : (s.finish).bOut = s.bOut := rfl
@[simp] theorem State.finish_sIndex (s : State) : (s.finish).sIndex = s.sIndex := rfl
@[simp] theorem State.finish_key (s : State) : (s.finish).key = s.key := rfl
@[simp] theorem State.finish_phase (s : State) : (s.finish).phase = .idle := rfl
@[simp] theorem State.finish_k (s : State) : (s.finish).k = s.k := rfl
@[simp] theorem State.finish_opw (s : State) : (s.finish).opw = s.opw := rfl
@[simp] theorem State.finish_opr (s : State) : (s.finish).opr = s.opr := rfl
@[simp] theorem State.finish_opt (s : State) : (s.finish).opt = s.opt := rfl
@[simp] theorem State.finish_opc (s : State) : (s.finish).opc = s.opc := rfl
@[simp] theorem State.finish_wa (s : State) : (s.finish).wa = s.wa := rfl
@[simp] theorem State.finish_wb (s : State) : (s.finish).wb = s.wb := rfl
@[simp] theorem State.finish_wi (s : State) : (s.finish).wi = s.wi := rfl
@[simp] theorem State.finish_wj (s : State) : (s.finish).wj = s.wj := rfl
@[simp] theorem State.finish_sTab (s : State) : (s.finish).sTab = s.sTab := rfl
@[simp] theorem State.finish_lArr (s : State) : (s.finish).lArr = s.lArr := rfl
@[simp] theorem State.finish_program (s : State) : (s.finish).program = s.program := rfl
@[simp] theorem State.finish_schedule (s : State) : (s.finish).schedule = s.schedule := rfl
@[simp] theorem State.finish_busResult (s : State) : (s.finish).busResult = s.busResult := rfl

@[simp] theorem State.respond_rMax (r : BusResult) (s : State) : (State.respond r s).rMax = s.rMax := rfl
@[simp] theorem State.respond_cfgW (r : BusResult) (s : State) : (State.respond r s).cfgW = s.cfgW := rfl
@[simp] theorem State.respond_cfgB (r : BusResult) (s : State) : (State.respond r s).cfgB = s.cfgB := rfl
@[simp] theorem State.respond_cfgR (r : BusResult) (s : State) : (State.respond r s).cfgR = s.cfgR := rfl
@[simp] theorem State.respond_valid (r : BusResult) (s : State) : (State.respond r s).valid = s.valid := rfl
@[simp] theorem State.respond_done (r : BusResult) (s : State) : (State.respond r s).done = s.done := rfl
@[simp] theorem State.respond_overrun (r : BusResult) (s : State) : (State.respond r s).overrun = s.overrun := rfl
@[simp] theorem State.respond_err (r : BusResult) (s : State) : (State.respond r s).err = s.err := rfl
@[simp] theorem State.respond_lastOp (r : BusResult) (s : State) : (State.respond r s).lastOp = s.lastOp := rfl
@[simp] theorem State.respond_ctxW (r : BusResult) (s : State) : (State.respond r s).ctxW = s.ctxW := rfl
@[simp] theorem State.respond_ctxR (r : BusResult) (s : State) : (State.respond r s).ctxR = s.ctxR := rfl
@[simp] theorem State.respond_aIn (r : BusResult) (s : State) : (State.respond r s).aIn = s.aIn := rfl
@[simp] theorem State.respond_bIn (r : BusResult) (s : State) : (State.respond r s).bIn = s.bIn := rfl
@[simp] theorem State.respond_aOut (r : BusResult) (s : State) : (State.respond r s).aOut = s.aOut := rfl
@[simp] theorem State.respond_bOut (r : BusResult) (s : State) : (State.respond r s).bOut = s.bOut := rfl
@[simp] theorem State.respond_sIndex (r : BusResult) (s : State) : (State.respond r s).sIndex = s.sIndex := rfl
@[simp] theorem State.respond_key (r : BusResult) (s : State) : (State.respond r s).key = s.key := rfl
@[simp] theorem State.respond_phase (r : BusResult) (s : State) : (State.respond r s).phase = s.phase := rfl
@[simp] theorem State.respond_k (r : BusResult) (s : State) : (State.respond r s).k = s.k := rfl
@[simp] theorem State.respond_opw (r : BusResult) (s : State) : (State.respond r s).opw = s.opw := rfl
@[simp] theorem State.respond_opr (r : BusResult) (s : State) : (State.respond r s).opr = s.opr := rfl
@[simp] theorem State.respond_opt (r : BusResult) (s : State) : (State.respond r s).opt = s.opt := rfl
@[simp] theorem State.respond_opc (r : BusResult) (s : State) : (State.respond r s).opc = s.opc := rfl
@[simp] theorem State.respond_wa (r : BusResult) (s : State) : (State.respond r s).wa = s.wa := rfl
@[simp] theorem State.respond_wb (r : BusResult) (s : State) : (State.respond r s).wb = s.wb := rfl
@[simp] theorem State.respond_wi (r : BusResult) (s : State) : (State.respond r s).wi = s.wi := rfl
@[simp] theorem State.respond_wj (r : BusResult) (s : State) : (State.respond r s).wj = s.wj := rfl
@[simp] theorem State.respond_sTab (r : BusResult) (s : State) : (State.respond r s).sTab = s.sTab := rfl
@[simp] theorem State.respond_lArr (r : BusResult) (s : State) : (State.respond r s).lArr = s.lArr := rfl
@[simp] theorem State.respond_program (r : BusResult) (s : State) : (State.respond r s).program = s.program := rfl
@[simp] theorem State.respond_schedule (r : BusResult) (s : State) : (State.respond r s).schedule = s.schedule := rfl
@[simp] theorem State.respond_busResult (r : BusResult) (s : State) : (State.respond r s).busResult = some r := rfl

@[simp] theorem State.writeCfg_rMax (d : Word) (s : State) : (State.writeCfg d s).rMax = s.rMax := rfl
@[simp] theorem State.writeCfg_cfgW (d : Word) (s : State) : (State.writeCfg d s).cfgW = d.extractLsb' 0 8 := rfl
@[simp] theorem State.writeCfg_cfgB (d : Word) (s : State) : (State.writeCfg d s).cfgB = d.extractLsb' 8 16 := rfl
@[simp] theorem State.writeCfg_cfgR (d : Word) (s : State) : (State.writeCfg d s).cfgR = d.extractLsb' 32 32 := rfl
@[simp] theorem State.writeCfg_valid (d : Word) (s : State) : (State.writeCfg d s).valid = s.valid := rfl
@[simp] theorem State.writeCfg_done (d : Word) (s : State) : (State.writeCfg d s).done = s.done := rfl
@[simp] theorem State.writeCfg_overrun (d : Word) (s : State) : (State.writeCfg d s).overrun = s.overrun := rfl
@[simp] theorem State.writeCfg_err (d : Word) (s : State) : (State.writeCfg d s).err = s.err := rfl
@[simp] theorem State.writeCfg_lastOp (d : Word) (s : State) : (State.writeCfg d s).lastOp = s.lastOp := rfl
@[simp] theorem State.writeCfg_ctxW (d : Word) (s : State) : (State.writeCfg d s).ctxW = s.ctxW := rfl
@[simp] theorem State.writeCfg_ctxR (d : Word) (s : State) : (State.writeCfg d s).ctxR = s.ctxR := rfl
@[simp] theorem State.writeCfg_aIn (d : Word) (s : State) : (State.writeCfg d s).aIn = s.aIn := rfl
@[simp] theorem State.writeCfg_bIn (d : Word) (s : State) : (State.writeCfg d s).bIn = s.bIn := rfl
@[simp] theorem State.writeCfg_aOut (d : Word) (s : State) : (State.writeCfg d s).aOut = s.aOut := rfl
@[simp] theorem State.writeCfg_bOut (d : Word) (s : State) : (State.writeCfg d s).bOut = s.bOut := rfl
@[simp] theorem State.writeCfg_sIndex (d : Word) (s : State) : (State.writeCfg d s).sIndex = s.sIndex := rfl
@[simp] theorem State.writeCfg_key (d : Word) (s : State) : (State.writeCfg d s).key = s.key := rfl
@[simp] theorem State.writeCfg_phase (d : Word) (s : State) : (State.writeCfg d s).phase = s.phase := rfl
@[simp] theorem State.writeCfg_k (d : Word) (s : State) : (State.writeCfg d s).k = s.k := rfl
@[simp] theorem State.writeCfg_opw (d : Word) (s : State) : (State.writeCfg d s).opw = s.opw := rfl
@[simp] theorem State.writeCfg_opr (d : Word) (s : State) : (State.writeCfg d s).opr = s.opr := rfl
@[simp] theorem State.writeCfg_opt (d : Word) (s : State) : (State.writeCfg d s).opt = s.opt := rfl
@[simp] theorem State.writeCfg_opc (d : Word) (s : State) : (State.writeCfg d s).opc = s.opc := rfl
@[simp] theorem State.writeCfg_wa (d : Word) (s : State) : (State.writeCfg d s).wa = s.wa := rfl
@[simp] theorem State.writeCfg_wb (d : Word) (s : State) : (State.writeCfg d s).wb = s.wb := rfl
@[simp] theorem State.writeCfg_wi (d : Word) (s : State) : (State.writeCfg d s).wi = s.wi := rfl
@[simp] theorem State.writeCfg_wj (d : Word) (s : State) : (State.writeCfg d s).wj = s.wj := rfl
@[simp] theorem State.writeCfg_sTab (d : Word) (s : State) : (State.writeCfg d s).sTab = s.sTab := rfl
@[simp] theorem State.writeCfg_lArr (d : Word) (s : State) : (State.writeCfg d s).lArr = s.lArr := rfl
@[simp] theorem State.writeCfg_program (d : Word) (s : State) : (State.writeCfg d s).program = s.program := rfl
@[simp] theorem State.writeCfg_schedule (d : Word) (s : State) : (State.writeCfg d s).schedule = s.schedule := rfl
@[simp] theorem State.writeCfg_busResult (d : Word) (s : State) : (State.writeCfg d s).busResult = s.busResult := rfl

@[simp] theorem State.setWords_rMax (x : Word × Word) (s : State) : (State.setWords x s).rMax = s.rMax := rfl
@[simp] theorem State.setWords_cfgW (x : Word × Word) (s : State) : (State.setWords x s).cfgW = s.cfgW := rfl
@[simp] theorem State.setWords_cfgB (x : Word × Word) (s : State) : (State.setWords x s).cfgB = s.cfgB := rfl
@[simp] theorem State.setWords_cfgR (x : Word × Word) (s : State) : (State.setWords x s).cfgR = s.cfgR := rfl
@[simp] theorem State.setWords_valid (x : Word × Word) (s : State) : (State.setWords x s).valid = s.valid := rfl
@[simp] theorem State.setWords_done (x : Word × Word) (s : State) : (State.setWords x s).done = s.done := rfl
@[simp] theorem State.setWords_overrun (x : Word × Word) (s : State) : (State.setWords x s).overrun = s.overrun := rfl
@[simp] theorem State.setWords_err (x : Word × Word) (s : State) : (State.setWords x s).err = s.err := rfl
@[simp] theorem State.setWords_lastOp (x : Word × Word) (s : State) : (State.setWords x s).lastOp = s.lastOp := rfl
@[simp] theorem State.setWords_ctxW (x : Word × Word) (s : State) : (State.setWords x s).ctxW = s.ctxW := rfl
@[simp] theorem State.setWords_ctxR (x : Word × Word) (s : State) : (State.setWords x s).ctxR = s.ctxR := rfl
@[simp] theorem State.setWords_aIn (x : Word × Word) (s : State) : (State.setWords x s).aIn = s.aIn := rfl
@[simp] theorem State.setWords_bIn (x : Word × Word) (s : State) : (State.setWords x s).bIn = s.bIn := rfl
@[simp] theorem State.setWords_aOut (x : Word × Word) (s : State) : (State.setWords x s).aOut = s.aOut := rfl
@[simp] theorem State.setWords_bOut (x : Word × Word) (s : State) : (State.setWords x s).bOut = s.bOut := rfl
@[simp] theorem State.setWords_sIndex (x : Word × Word) (s : State) : (State.setWords x s).sIndex = s.sIndex := rfl
@[simp] theorem State.setWords_key (x : Word × Word) (s : State) : (State.setWords x s).key = s.key := rfl
@[simp] theorem State.setWords_phase (x : Word × Word) (s : State) : (State.setWords x s).phase = s.phase := rfl
@[simp] theorem State.setWords_k (x : Word × Word) (s : State) : (State.setWords x s).k = s.k := rfl
@[simp] theorem State.setWords_opw (x : Word × Word) (s : State) : (State.setWords x s).opw = s.opw := rfl
@[simp] theorem State.setWords_opr (x : Word × Word) (s : State) : (State.setWords x s).opr = s.opr := rfl
@[simp] theorem State.setWords_opt (x : Word × Word) (s : State) : (State.setWords x s).opt = s.opt := rfl
@[simp] theorem State.setWords_opc (x : Word × Word) (s : State) : (State.setWords x s).opc = s.opc := rfl
@[simp] theorem State.setWords_wa (x : Word × Word) (s : State) : (State.setWords x s).wa = x.1 := rfl
@[simp] theorem State.setWords_wb (x : Word × Word) (s : State) : (State.setWords x s).wb = x.2 := rfl
@[simp] theorem State.setWords_wi (x : Word × Word) (s : State) : (State.setWords x s).wi = s.wi := rfl
@[simp] theorem State.setWords_wj (x : Word × Word) (s : State) : (State.setWords x s).wj = s.wj := rfl
@[simp] theorem State.setWords_sTab (x : Word × Word) (s : State) : (State.setWords x s).sTab = s.sTab := rfl
@[simp] theorem State.setWords_lArr (x : Word × Word) (s : State) : (State.setWords x s).lArr = s.lArr := rfl
@[simp] theorem State.setWords_program (x : Word × Word) (s : State) : (State.setWords x s).program = s.program := rfl
@[simp] theorem State.setWords_schedule (x : Word × Word) (s : State) : (State.setWords x s).schedule = s.schedule := rfl
@[simp] theorem State.setWords_busResult (x : Word × Word) (s : State) : (State.setWords x s).busResult = s.busResult := rfl

@[simp] theorem latchBlock_rMax (op : BitVec 4) (s : State) : (latchBlock op s).rMax = s.rMax := rfl
@[simp] theorem latchBlock_cfgW (op : BitVec 4) (s : State) : (latchBlock op s).cfgW = s.cfgW := rfl
@[simp] theorem latchBlock_cfgB (op : BitVec 4) (s : State) : (latchBlock op s).cfgB = s.cfgB := rfl
@[simp] theorem latchBlock_cfgR (op : BitVec 4) (s : State) : (latchBlock op s).cfgR = s.cfgR := rfl
@[simp] theorem latchBlock_valid (op : BitVec 4) (s : State) : (latchBlock op s).valid = s.valid := rfl
@[simp] theorem latchBlock_done (op : BitVec 4) (s : State) : (latchBlock op s).done = false := rfl
@[simp] theorem latchBlock_overrun (op : BitVec 4) (s : State) : (latchBlock op s).overrun = false := rfl
@[simp] theorem latchBlock_err (op : BitVec 4) (s : State) : (latchBlock op s).err = .noError := rfl
@[simp] theorem latchBlock_lastOp (op : BitVec 4) (s : State) : (latchBlock op s).lastOp = op := rfl
@[simp] theorem latchBlock_ctxW (op : BitVec 4) (s : State) : (latchBlock op s).ctxW = s.ctxW := rfl
@[simp] theorem latchBlock_ctxR (op : BitVec 4) (s : State) : (latchBlock op s).ctxR = s.ctxR := rfl
@[simp] theorem latchBlock_aIn (op : BitVec 4) (s : State) : (latchBlock op s).aIn = s.aIn := rfl
@[simp] theorem latchBlock_bIn (op : BitVec 4) (s : State) : (latchBlock op s).bIn = s.bIn := rfl
@[simp] theorem latchBlock_aOut (op : BitVec 4) (s : State) : (latchBlock op s).aOut = s.aOut := rfl
@[simp] theorem latchBlock_bOut (op : BitVec 4) (s : State) : (latchBlock op s).bOut = s.bOut := rfl
@[simp] theorem latchBlock_sIndex (op : BitVec 4) (s : State) : (latchBlock op s).sIndex = s.sIndex := rfl
@[simp] theorem latchBlock_key (op : BitVec 4) (s : State) : (latchBlock op s).key = s.key := rfl
@[simp] theorem latchBlock_phase (op : BitVec 4) (s : State) : (latchBlock op s).phase = s.phase := rfl
@[simp] theorem latchBlock_k (op : BitVec 4) (s : State) : (latchBlock op s).k = s.k := rfl
@[simp] theorem latchBlock_opw (op : BitVec 4) (s : State) : (latchBlock op s).opw = s.ctxW := rfl
@[simp] theorem latchBlock_opr (op : BitVec 4) (s : State) : (latchBlock op s).opr = s.ctxR := rfl
@[simp] theorem latchBlock_opt (op : BitVec 4) (s : State) : (latchBlock op s).opt = s.opt := rfl
@[simp] theorem latchBlock_opc (op : BitVec 4) (s : State) : (latchBlock op s).opc = s.opc := rfl
@[simp] theorem latchBlock_wa (op : BitVec 4) (s : State) : (latchBlock op s).wa = lowBits s.ctxW.toNat s.aIn := rfl
@[simp] theorem latchBlock_wb (op : BitVec 4) (s : State) : (latchBlock op s).wb = lowBits s.ctxW.toNat s.bIn := rfl
@[simp] theorem latchBlock_wi (op : BitVec 4) (s : State) : (latchBlock op s).wi = s.wi := rfl
@[simp] theorem latchBlock_wj (op : BitVec 4) (s : State) : (latchBlock op s).wj = s.wj := rfl
@[simp] theorem latchBlock_sTab (op : BitVec 4) (s : State) : (latchBlock op s).sTab = s.sTab := rfl
@[simp] theorem latchBlock_lArr (op : BitVec 4) (s : State) : (latchBlock op s).lArr = s.lArr := rfl
@[simp] theorem latchBlock_program (op : BitVec 4) (s : State) : (latchBlock op s).program = s.program := rfl
@[simp] theorem latchBlock_schedule (op : BitVec 4) (s : State) : (latchBlock op s).schedule = s.schedule := rfl
@[simp] theorem latchBlock_busResult (op : BitVec 4) (s : State) : (latchBlock op s).busResult = s.busResult := rfl

@[simp] theorem startBuild_rMax (w : Width) (s : State) : (startBuild w s).rMax = s.rMax := rfl
@[simp] theorem startBuild_cfgW (w : Width) (s : State) : (startBuild w s).cfgW = s.cfgW := rfl
@[simp] theorem startBuild_cfgB (w : Width) (s : State) : (startBuild w s).cfgB = s.cfgB := rfl
@[simp] theorem startBuild_cfgR (w : Width) (s : State) : (startBuild w s).cfgR = s.cfgR := rfl
@[simp] theorem startBuild_valid (w : Width) (s : State) : (startBuild w s).valid = false := rfl
@[simp] theorem startBuild_done (w : Width) (s : State) : (startBuild w s).done = false := rfl
@[simp] theorem startBuild_overrun (w : Width) (s : State) : (startBuild w s).overrun = false := rfl
@[simp] theorem startBuild_err (w : Width) (s : State) : (startBuild w s).err = .noError := rfl
@[simp] theorem startBuild_lastOp (w : Width) (s : State) : (startBuild w s).lastOp = 1 := rfl
@[simp] theorem startBuild_ctxW (w : Width) (s : State) : (startBuild w s).ctxW = 0 := rfl
@[simp] theorem startBuild_ctxR (w : Width) (s : State) : (startBuild w s).ctxR = 0 := rfl
@[simp] theorem startBuild_aIn (w : Width) (s : State) : (startBuild w s).aIn = s.aIn := rfl
@[simp] theorem startBuild_bIn (w : Width) (s : State) : (startBuild w s).bIn = s.bIn := rfl
@[simp] theorem startBuild_aOut (w : Width) (s : State) : (startBuild w s).aOut = s.aOut := rfl
@[simp] theorem startBuild_bOut (w : Width) (s : State) : (startBuild w s).bOut = s.bOut := rfl
@[simp] theorem startBuild_sIndex (w : Width) (s : State) : (startBuild w s).sIndex = s.sIndex := rfl
@[simp] theorem startBuild_key (w : Width) (s : State) : (startBuild w s).key = s.key := rfl
@[simp] theorem startBuild_phase (w : Width) (s : State) : (startBuild w s).phase = .ksInit := rfl
@[simp] theorem startBuild_k (w : Width) (s : State) : (startBuild w s).k = 0 := rfl
@[simp] theorem startBuild_opw (w : Width) (s : State) : (startBuild w s).opw = s.cfgW := rfl
@[simp] theorem startBuild_opr (w : Width) (s : State) : (startBuild w s).opr = s.cfgR := rfl
@[simp] theorem startBuild_opt (w : Width) (s : State) : (startBuild w s).opt = BitVec.ofNat 32 (tableLength s.cfgR.toNat) := rfl
@[simp] theorem startBuild_opc (w : Width) (s : State) : (startBuild w s).opc = BitVec.ofNat 8 (wordCount w s.cfgB.toNat) := rfl
@[simp] theorem startBuild_wa (w : Width) (s : State) : (startBuild w s).wa = s.wa := rfl
@[simp] theorem startBuild_wb (w : Width) (s : State) : (startBuild w s).wb = s.wb := rfl
@[simp] theorem startBuild_wi (w : Width) (s : State) : (startBuild w s).wi = s.wi := rfl
@[simp] theorem startBuild_wj (w : Width) (s : State) : (startBuild w s).wj = s.wj := rfl
@[simp] theorem startBuild_sTab (w : Width) (s : State) : (startBuild w s).sTab = s.sTab := rfl
@[simp] theorem startBuild_lArr (w : Width) (s : State) : (startBuild w s).lArr = s.lArr.writeFrom 0 (keyWords w (keyBytes s.key s.cfgB.toNat)) := rfl
@[simp] theorem startBuild_program (w : Width) (s : State) : (startBuild w s).program = s.program := rfl
@[simp] theorem startBuild_schedule (w : Width) (s : State) : (startBuild w s).schedule = s.schedule := rfl
@[simp] theorem startBuild_busResult (w : Width) (s : State) : (startBuild w s).busResult = s.busResult := rfl

@[simp] theorem startMix_rMax (s : State) : (startMix s).rMax = s.rMax := rfl
@[simp] theorem startMix_cfgW (s : State) : (startMix s).cfgW = s.cfgW := rfl
@[simp] theorem startMix_cfgB (s : State) : (startMix s).cfgB = s.cfgB := rfl
@[simp] theorem startMix_cfgR (s : State) : (startMix s).cfgR = s.cfgR := rfl
@[simp] theorem startMix_valid (s : State) : (startMix s).valid = s.valid := rfl
@[simp] theorem startMix_done (s : State) : (startMix s).done = s.done := rfl
@[simp] theorem startMix_overrun (s : State) : (startMix s).overrun = s.overrun := rfl
@[simp] theorem startMix_err (s : State) : (startMix s).err = s.err := rfl
@[simp] theorem startMix_lastOp (s : State) : (startMix s).lastOp = s.lastOp := rfl
@[simp] theorem startMix_ctxW (s : State) : (startMix s).ctxW = s.ctxW := rfl
@[simp] theorem startMix_ctxR (s : State) : (startMix s).ctxR = s.ctxR := rfl
@[simp] theorem startMix_aIn (s : State) : (startMix s).aIn = s.aIn := rfl
@[simp] theorem startMix_bIn (s : State) : (startMix s).bIn = s.bIn := rfl
@[simp] theorem startMix_aOut (s : State) : (startMix s).aOut = s.aOut := rfl
@[simp] theorem startMix_bOut (s : State) : (startMix s).bOut = s.bOut := rfl
@[simp] theorem startMix_sIndex (s : State) : (startMix s).sIndex = s.sIndex := rfl
@[simp] theorem startMix_key (s : State) : (startMix s).key = s.key := rfl
@[simp] theorem startMix_phase (s : State) : (startMix s).phase = .ksMix := rfl
@[simp] theorem startMix_k (s : State) : (startMix s).k = 0 := rfl
@[simp] theorem startMix_opw (s : State) : (startMix s).opw = s.opw := rfl
@[simp] theorem startMix_opr (s : State) : (startMix s).opr = s.opr := rfl
@[simp] theorem startMix_opt (s : State) : (startMix s).opt = s.opt := rfl
@[simp] theorem startMix_opc (s : State) : (startMix s).opc = s.opc := rfl
@[simp] theorem startMix_wa (s : State) : (startMix s).wa = 0 := rfl
@[simp] theorem startMix_wb (s : State) : (startMix s).wb = 0 := rfl
@[simp] theorem startMix_wi (s : State) : (startMix s).wi = 0 := rfl
@[simp] theorem startMix_wj (s : State) : (startMix s).wj = 0 := rfl
@[simp] theorem startMix_sTab (s : State) : (startMix s).sTab = s.sTab := rfl
@[simp] theorem startMix_lArr (s : State) : (startMix s).lArr = s.lArr := rfl
@[simp] theorem startMix_program (s : State) : (startMix s).program = s.program := rfl
@[simp] theorem startMix_schedule (s : State) : (startMix s).schedule = s.schedule := rfl
@[simp] theorem startMix_busResult (s : State) : (startMix s).busResult = s.busResult := rfl

@[simp] theorem finishBuild_rMax (s : State) : (finishBuild s).rMax = s.rMax := rfl
@[simp] theorem finishBuild_cfgW (s : State) : (finishBuild s).cfgW = s.cfgW := rfl
@[simp] theorem finishBuild_cfgB (s : State) : (finishBuild s).cfgB = s.cfgB := rfl
@[simp] theorem finishBuild_cfgR (s : State) : (finishBuild s).cfgR = s.cfgR := rfl
@[simp] theorem finishBuild_valid (s : State) : (finishBuild s).valid = true := rfl
@[simp] theorem finishBuild_done (s : State) : (finishBuild s).done = true := rfl
@[simp] theorem finishBuild_overrun (s : State) : (finishBuild s).overrun = s.overrun := rfl
@[simp] theorem finishBuild_err (s : State) : (finishBuild s).err = s.err := rfl
@[simp] theorem finishBuild_lastOp (s : State) : (finishBuild s).lastOp = s.lastOp := rfl
@[simp] theorem finishBuild_ctxW (s : State) : (finishBuild s).ctxW = s.opw := rfl
@[simp] theorem finishBuild_ctxR (s : State) : (finishBuild s).ctxR = s.opr := rfl
@[simp] theorem finishBuild_aIn (s : State) : (finishBuild s).aIn = s.aIn := rfl
@[simp] theorem finishBuild_bIn (s : State) : (finishBuild s).bIn = s.bIn := rfl
@[simp] theorem finishBuild_aOut (s : State) : (finishBuild s).aOut = s.aOut := rfl
@[simp] theorem finishBuild_bOut (s : State) : (finishBuild s).bOut = s.bOut := rfl
@[simp] theorem finishBuild_sIndex (s : State) : (finishBuild s).sIndex = s.sIndex := rfl
@[simp] theorem finishBuild_key (s : State) : (finishBuild s).key = s.key := rfl
@[simp] theorem finishBuild_phase (s : State) : (finishBuild s).phase = .idle := rfl
@[simp] theorem finishBuild_k (s : State) : (finishBuild s).k = s.k := rfl
@[simp] theorem finishBuild_opw (s : State) : (finishBuild s).opw = s.opw := rfl
@[simp] theorem finishBuild_opr (s : State) : (finishBuild s).opr = s.opr := rfl
@[simp] theorem finishBuild_opt (s : State) : (finishBuild s).opt = s.opt := rfl
@[simp] theorem finishBuild_opc (s : State) : (finishBuild s).opc = s.opc := rfl
@[simp] theorem finishBuild_wa (s : State) : (finishBuild s).wa = s.wa := rfl
@[simp] theorem finishBuild_wb (s : State) : (finishBuild s).wb = s.wb := rfl
@[simp] theorem finishBuild_wi (s : State) : (finishBuild s).wi = s.wi := rfl
@[simp] theorem finishBuild_wj (s : State) : (finishBuild s).wj = s.wj := rfl
@[simp] theorem finishBuild_sTab (s : State) : (finishBuild s).sTab = s.sTab := rfl
@[simp] theorem finishBuild_lArr (s : State) : (finishBuild s).lArr = Memory.zero := rfl
@[simp] theorem finishBuild_program (s : State) : (finishBuild s).program = s.program := rfl
@[simp] theorem finishBuild_schedule (s : State) : (finishBuild s).schedule = s.schedule := rfl
@[simp] theorem finishBuild_busResult (s : State) : (finishBuild s).busResult = s.busResult := rfl

@[simp] theorem finishBlock_rMax (s : State) : (finishBlock s).rMax = s.rMax := rfl
@[simp] theorem finishBlock_cfgW (s : State) : (finishBlock s).cfgW = s.cfgW := rfl
@[simp] theorem finishBlock_cfgB (s : State) : (finishBlock s).cfgB = s.cfgB := rfl
@[simp] theorem finishBlock_cfgR (s : State) : (finishBlock s).cfgR = s.cfgR := rfl
@[simp] theorem finishBlock_valid (s : State) : (finishBlock s).valid = s.valid := rfl
@[simp] theorem finishBlock_done (s : State) : (finishBlock s).done = true := rfl
@[simp] theorem finishBlock_overrun (s : State) : (finishBlock s).overrun = s.overrun := rfl
@[simp] theorem finishBlock_err (s : State) : (finishBlock s).err = s.err := rfl
@[simp] theorem finishBlock_lastOp (s : State) : (finishBlock s).lastOp = s.lastOp := rfl
@[simp] theorem finishBlock_ctxW (s : State) : (finishBlock s).ctxW = s.ctxW := rfl
@[simp] theorem finishBlock_ctxR (s : State) : (finishBlock s).ctxR = s.ctxR := rfl
@[simp] theorem finishBlock_aIn (s : State) : (finishBlock s).aIn = s.aIn := rfl
@[simp] theorem finishBlock_bIn (s : State) : (finishBlock s).bIn = s.bIn := rfl
@[simp] theorem finishBlock_aOut (s : State) : (finishBlock s).aOut = lowBits s.opw.toNat s.wa := rfl
@[simp] theorem finishBlock_bOut (s : State) : (finishBlock s).bOut = lowBits s.opw.toNat s.wb := rfl
@[simp] theorem finishBlock_sIndex (s : State) : (finishBlock s).sIndex = s.sIndex := rfl
@[simp] theorem finishBlock_key (s : State) : (finishBlock s).key = s.key := rfl
@[simp] theorem finishBlock_phase (s : State) : (finishBlock s).phase = .idle := rfl
@[simp] theorem finishBlock_k (s : State) : (finishBlock s).k = s.k := rfl
@[simp] theorem finishBlock_opw (s : State) : (finishBlock s).opw = s.opw := rfl
@[simp] theorem finishBlock_opr (s : State) : (finishBlock s).opr = s.opr := rfl
@[simp] theorem finishBlock_opt (s : State) : (finishBlock s).opt = s.opt := rfl
@[simp] theorem finishBlock_opc (s : State) : (finishBlock s).opc = s.opc := rfl
@[simp] theorem finishBlock_wa (s : State) : (finishBlock s).wa = s.wa := rfl
@[simp] theorem finishBlock_wb (s : State) : (finishBlock s).wb = s.wb := rfl
@[simp] theorem finishBlock_wi (s : State) : (finishBlock s).wi = s.wi := rfl
@[simp] theorem finishBlock_wj (s : State) : (finishBlock s).wj = s.wj := rfl
@[simp] theorem finishBlock_sTab (s : State) : (finishBlock s).sTab = s.sTab := rfl
@[simp] theorem finishBlock_lArr (s : State) : (finishBlock s).lArr = s.lArr := rfl
@[simp] theorem finishBlock_program (s : State) : (finishBlock s).program = s.program := rfl
@[simp] theorem finishBlock_schedule (s : State) : (finishBlock s).schedule = s.schedule := rfl
@[simp] theorem finishBlock_busResult (s : State) : (finishBlock s).busResult = s.busResult := rfl

@[simp] theorem acceptClear_rMax (s : State) : (acceptClear s).rMax = s.rMax := rfl
@[simp] theorem acceptClear_cfgW (s : State) : (acceptClear s).cfgW = s.cfgW := rfl
@[simp] theorem acceptClear_cfgB (s : State) : (acceptClear s).cfgB = s.cfgB := rfl
@[simp] theorem acceptClear_cfgR (s : State) : (acceptClear s).cfgR = s.cfgR := rfl
@[simp] theorem acceptClear_valid (s : State) : (acceptClear s).valid = false := rfl
@[simp] theorem acceptClear_done (s : State) : (acceptClear s).done = true := rfl
@[simp] theorem acceptClear_overrun (s : State) : (acceptClear s).overrun = false := rfl
@[simp] theorem acceptClear_err (s : State) : (acceptClear s).err = .noError := rfl
@[simp] theorem acceptClear_lastOp (s : State) : (acceptClear s).lastOp = 4 := rfl
@[simp] theorem acceptClear_ctxW (s : State) : (acceptClear s).ctxW = 0 := rfl
@[simp] theorem acceptClear_ctxR (s : State) : (acceptClear s).ctxR = 0 := rfl
@[simp] theorem acceptClear_aIn (s : State) : (acceptClear s).aIn = s.aIn := rfl
@[simp] theorem acceptClear_bIn (s : State) : (acceptClear s).bIn = s.bIn := rfl
@[simp] theorem acceptClear_aOut (s : State) : (acceptClear s).aOut = 0 := rfl
@[simp] theorem acceptClear_bOut (s : State) : (acceptClear s).bOut = 0 := rfl
@[simp] theorem acceptClear_sIndex (s : State) : (acceptClear s).sIndex = s.sIndex := rfl
@[simp] theorem acceptClear_key (s : State) : (acceptClear s).key = Memory.zero := rfl
@[simp] theorem acceptClear_phase (s : State) : (acceptClear s).phase = s.phase := rfl
@[simp] theorem acceptClear_k (s : State) : (acceptClear s).k = s.k := rfl
@[simp] theorem acceptClear_opw (s : State) : (acceptClear s).opw = s.opw := rfl
@[simp] theorem acceptClear_opr (s : State) : (acceptClear s).opr = s.opr := rfl
@[simp] theorem acceptClear_opt (s : State) : (acceptClear s).opt = s.opt := rfl
@[simp] theorem acceptClear_opc (s : State) : (acceptClear s).opc = s.opc := rfl
@[simp] theorem acceptClear_wa (s : State) : (acceptClear s).wa = 0 := rfl
@[simp] theorem acceptClear_wb (s : State) : (acceptClear s).wb = 0 := rfl
@[simp] theorem acceptClear_wi (s : State) : (acceptClear s).wi = s.wi := rfl
@[simp] theorem acceptClear_wj (s : State) : (acceptClear s).wj = s.wj := rfl
@[simp] theorem acceptClear_sTab (s : State) : (acceptClear s).sTab = Memory.zero := rfl
@[simp] theorem acceptClear_lArr (s : State) : (acceptClear s).lArr = Memory.zero := rfl
@[simp] theorem acceptClear_program (s : State) : (acceptClear s).program = s.program := rfl
@[simp] theorem acceptClear_schedule (s : State) : (acceptClear s).schedule = s.schedule := rfl
@[simp] theorem acceptClear_busResult (s : State) : (acceptClear s).busResult = s.busResult := rfl

@[simp] theorem resetInput_rMax (s : State) : (resetInput s).rMax = s.rMax := rfl
@[simp] theorem resetInput_cfgW (s : State) : (resetInput s).cfgW = 32 := rfl
@[simp] theorem resetInput_cfgB (s : State) : (resetInput s).cfgB = 16 := rfl
@[simp] theorem resetInput_cfgR (s : State) : (resetInput s).cfgR = 12 := rfl
@[simp] theorem resetInput_valid (s : State) : (resetInput s).valid = false := rfl
@[simp] theorem resetInput_done (s : State) : (resetInput s).done = false := rfl
@[simp] theorem resetInput_overrun (s : State) : (resetInput s).overrun = false := rfl
@[simp] theorem resetInput_err (s : State) : (resetInput s).err = .noError := rfl
@[simp] theorem resetInput_lastOp (s : State) : (resetInput s).lastOp = 0 := rfl
@[simp] theorem resetInput_ctxW (s : State) : (resetInput s).ctxW = 0 := rfl
@[simp] theorem resetInput_ctxR (s : State) : (resetInput s).ctxR = 0 := rfl
@[simp] theorem resetInput_aIn (s : State) : (resetInput s).aIn = 0 := rfl
@[simp] theorem resetInput_bIn (s : State) : (resetInput s).bIn = 0 := rfl
@[simp] theorem resetInput_aOut (s : State) : (resetInput s).aOut = 0 := rfl
@[simp] theorem resetInput_bOut (s : State) : (resetInput s).bOut = 0 := rfl
@[simp] theorem resetInput_sIndex (s : State) : (resetInput s).sIndex = 0 := rfl
@[simp] theorem resetInput_key (s : State) : (resetInput s).key = [] := rfl
@[simp] theorem resetInput_phase (s : State) : (resetInput s).phase = .idle := rfl
@[simp] theorem resetInput_k (s : State) : (resetInput s).k = 0 := rfl
@[simp] theorem resetInput_opw (s : State) : (resetInput s).opw = 0 := rfl
@[simp] theorem resetInput_opr (s : State) : (resetInput s).opr = 0 := rfl
@[simp] theorem resetInput_opt (s : State) : (resetInput s).opt = 0 := rfl
@[simp] theorem resetInput_opc (s : State) : (resetInput s).opc = 0 := rfl
@[simp] theorem resetInput_wa (s : State) : (resetInput s).wa = 0 := rfl
@[simp] theorem resetInput_wb (s : State) : (resetInput s).wb = 0 := rfl
@[simp] theorem resetInput_wi (s : State) : (resetInput s).wi = 0 := rfl
@[simp] theorem resetInput_wj (s : State) : (resetInput s).wj = 0 := rfl
@[simp] theorem resetInput_sTab (s : State) : (resetInput s).sTab = [] := rfl
@[simp] theorem resetInput_lArr (s : State) : (resetInput s).lArr = [] := rfl
@[simp] theorem resetInput_program (s : State) : (resetInput s).program = s.program := rfl
@[simp] theorem resetInput_schedule (s : State) : (resetInput s).schedule = s.schedule := rfl
@[simp] theorem resetInput_busResult (s : State) : (resetInput s).busResult = s.busResult := rfl

@[simp] theorem State.withFetchWord_rMax (s : State) (n w : Nat) : (s.withFetchWord n w).rMax = s.rMax := rfl
@[simp] theorem State.withFetchWord_cfgW (s : State) (n w : Nat) : (s.withFetchWord n w).cfgW = s.cfgW := rfl
@[simp] theorem State.withFetchWord_cfgB (s : State) (n w : Nat) : (s.withFetchWord n w).cfgB = s.cfgB := rfl
@[simp] theorem State.withFetchWord_cfgR (s : State) (n w : Nat) : (s.withFetchWord n w).cfgR = s.cfgR := rfl
@[simp] theorem State.withFetchWord_valid (s : State) (n w : Nat) : (s.withFetchWord n w).valid = s.valid := rfl
@[simp] theorem State.withFetchWord_done (s : State) (n w : Nat) : (s.withFetchWord n w).done = s.done := rfl
@[simp] theorem State.withFetchWord_overrun (s : State) (n w : Nat) : (s.withFetchWord n w).overrun = s.overrun := rfl
@[simp] theorem State.withFetchWord_err (s : State) (n w : Nat) : (s.withFetchWord n w).err = s.err := rfl
@[simp] theorem State.withFetchWord_lastOp (s : State) (n w : Nat) : (s.withFetchWord n w).lastOp = s.lastOp := rfl
@[simp] theorem State.withFetchWord_ctxW (s : State) (n w : Nat) : (s.withFetchWord n w).ctxW = s.ctxW := rfl
@[simp] theorem State.withFetchWord_ctxR (s : State) (n w : Nat) : (s.withFetchWord n w).ctxR = s.ctxR := rfl
@[simp] theorem State.withFetchWord_aIn (s : State) (n w : Nat) : (s.withFetchWord n w).aIn = s.aIn := rfl
@[simp] theorem State.withFetchWord_bIn (s : State) (n w : Nat) : (s.withFetchWord n w).bIn = s.bIn := rfl
@[simp] theorem State.withFetchWord_aOut (s : State) (n w : Nat) : (s.withFetchWord n w).aOut = s.aOut := rfl
@[simp] theorem State.withFetchWord_bOut (s : State) (n w : Nat) : (s.withFetchWord n w).bOut = s.bOut := rfl
@[simp] theorem State.withFetchWord_sIndex (s : State) (n w : Nat) : (s.withFetchWord n w).sIndex = s.sIndex := rfl
@[simp] theorem State.withFetchWord_key (s : State) (n w : Nat) : (s.withFetchWord n w).key = s.key := rfl
@[simp] theorem State.withFetchWord_phase (s : State) (n w : Nat) : (s.withFetchWord n w).phase = s.phase := rfl
@[simp] theorem State.withFetchWord_k (s : State) (n w : Nat) : (s.withFetchWord n w).k = s.k := rfl
@[simp] theorem State.withFetchWord_opw (s : State) (n w : Nat) : (s.withFetchWord n w).opw = s.opw := rfl
@[simp] theorem State.withFetchWord_opr (s : State) (n w : Nat) : (s.withFetchWord n w).opr = s.opr := rfl
@[simp] theorem State.withFetchWord_opt (s : State) (n w : Nat) : (s.withFetchWord n w).opt = s.opt := rfl
@[simp] theorem State.withFetchWord_opc (s : State) (n w : Nat) : (s.withFetchWord n w).opc = s.opc := rfl
@[simp] theorem State.withFetchWord_wa (s : State) (n w : Nat) : (s.withFetchWord n w).wa = s.wa := rfl
@[simp] theorem State.withFetchWord_wb (s : State) (n w : Nat) : (s.withFetchWord n w).wb = s.wb := rfl
@[simp] theorem State.withFetchWord_wi (s : State) (n w : Nat) : (s.withFetchWord n w).wi = s.wi := rfl
@[simp] theorem State.withFetchWord_wj (s : State) (n w : Nat) : (s.withFetchWord n w).wj = s.wj := rfl
@[simp] theorem State.withFetchWord_sTab (s : State) (n w : Nat) : (s.withFetchWord n w).sTab = s.sTab := rfl
@[simp] theorem State.withFetchWord_lArr (s : State) (n w : Nat) : (s.withFetchWord n w).lArr = s.lArr := rfl
@[simp] theorem State.withFetchWord_program (s : State) (n w : Nat) : (s.withFetchWord n w).program = HostOp.write 0x018 8 (BitVec.ofNat 64 (w % 2 ^ n)) :: s.program := rfl
@[simp] theorem State.withFetchWord_schedule (s : State) (n w : Nat) : (s.withFetchWord n w).schedule = Turn.host :: s.schedule := rfl
@[simp] theorem State.withFetchWord_busResult (s : State) (n w : Nat) : (s.withFetchWord n w).busResult = s.busResult := rfl

end Sys2Proof.Machine
end

