-- ==== Sys2Proof/Laws/Step.lean ====
section
/-! SUPPORT. Inversion: everything a command, a Host step, a micro-step and a step can do, said once. Later proofs cite
these and unfold none of the functions. -/

namespace Sys2Proof.Machine

@[simp] theorem mapNext_next (f : State → State) (s : State) : mapNext f (.next s) = .next (f s) := rfl

@[simp] theorem nextOf_next (s : State) : nextOf (.next s) = some s := rfl

theorem busy_eq_true {s : State} : s.busy = true ↔ s.phase ≠ .idle := by simp [State.busy]

theorem busy_eq_false {s : State} : s.busy = false ↔ s.phase = .idle := by simp [State.busy]

theorem whenIdle_of_busy {s : State} (h : s.busy = true) (f : State → State) : whenIdle f s = s.dropCommand := by
  simp [whenIdle, h]

theorem whenIdle_of_idle {s : State} (h : s.busy = false) (f : State → State) : whenIdle f s = f s := by
  simp [whenIdle, h]

theorem atWidth_of {s : State} {w : Width} (h : Width.ofField s.opw = some w) (f : Width → State → Result) :
    atWidth f s = f w s := by
  simp [atWidth, h]

/-- Everything a word presented to CMD can do to the engine, by what it decodes to (30_encoding.md R92). -/
inductive CommandEffect (d : Except DecodeReject Instr) (s : State) : State → Prop where
  | nop (hd : d = .ok .nop) : CommandEffect d s s
  | dropped (hd : d ≠ .ok .nop) (h : s.busy = true) : CommandEffect d s s.dropCommand
  | failed (hd : d ≠ .ok .nop) (hc : d ≠ .ok .clear) (h : s.busy = false) (c : ErrCode) (he : c ≠ .noError)
      (op : BitVec 4) : CommandEffect d s (s.recordError c op)
  | build (hd : d = .ok .build) (h : s.busy = false) (w : Width) (hw : s.buildLegal w) :
      CommandEffect d s (startBuild w s)
  | encrypt (hd : d = .ok .encrypt) (h : s.busy = false) (hv : s.valid = true) :
      CommandEffect d s { latchBlock 2 s with phase := .encPre }
  | decrypt (hd : d = .ok .decrypt) (h : s.busy = false) (hv : s.valid = true) :
      CommandEffect d s
        { latchBlock 3 s with k := s.ctxR, phase := if s.ctxR = 0 then Phase.decPost else Phase.decRound }
  | clear (hd : d = .ok .clear) (h : s.busy = false) : CommandEffect d s (acceptClear s)

/-- Everything an access to a register other than CMD can do to the engine (20_memory.md R64 to R68). -/
inductive RegisterEffect (s : State) : State → Prop where
  | nothing : RegisterEffect s s
  | cfg (d : Word) : RegisterEffect s (s.writeCfg d)
  | aIn (d : Word) : RegisterEffect s { s with aIn := d }
  | bIn (d : Word) : RegisterEffect s { s with bIn := d }
  | sIndex (v : BitVec 32) : RegisterEffect s { s with sIndex := v }
  | key (q : Fin 32) (d : Word) : RegisterEffect s { s with key := s.key.write q.val d }

/-- A BUILD of an idle engine fails one of its checks or starts (41_key_schedule.md R131). -/
theorem acceptBuild_effect {s : State} (h : s.busy = false) : CommandEffect (.ok .build) s (acceptBuild s) := by
  unfold acceptBuild
  split
  · exact .failed (by decide) (by decide) h _ (by decide) _
  · rename_i w hw
    split
    · exact .failed (by decide) (by decide) h _ (by decide) _
    · split
      · exact .failed (by decide) (by decide) h _ (by decide) _
      · exact .build rfl h w ⟨hw, by omega, by omega⟩

/-- Every command answers a next state, and that state is one of the effects (30_encoding.md R92). -/
theorem exec_effect (i : Instr) (s : State) : ∃ t, exec i s = .next t ∧ CommandEffect (.ok i) s t := by
  cases hb : s.busy with
  | true =>
    cases i with
    | nop => exact ⟨_, rfl, .nop rfl⟩
    | build => exact ⟨_, rfl, by rw [whenIdle_of_busy hb]; exact .dropped (by decide) hb⟩
    | encrypt => exact ⟨_, rfl, by rw [whenIdle_of_busy hb]; exact .dropped (by decide) hb⟩
    | decrypt => exact ⟨_, rfl, by rw [whenIdle_of_busy hb]; exact .dropped (by decide) hb⟩
    | clear => exact ⟨_, rfl, by rw [whenIdle_of_busy hb]; exact .dropped (by decide) hb⟩
  | false =>
    cases i with
    | nop => exact ⟨_, rfl, .nop rfl⟩
    | build => exact ⟨_, rfl, by rw [whenIdle_of_idle hb]; exact acceptBuild_effect hb⟩
    | encrypt =>
      refine ⟨_, rfl, ?_⟩
      rw [whenIdle_of_idle hb]
      cases hv : s.valid with
      | true => simpa [acceptEncrypt, withContext, hv] using CommandEffect.encrypt (d := .ok .encrypt) rfl hb hv
      | false =>
        simpa [acceptEncrypt, withContext, hv] using
          CommandEffect.failed (d := .ok .encrypt) (by decide) (by decide) hb ErrCode.noContext (by decide) 2
    | decrypt =>
      refine ⟨_, rfl, ?_⟩
      rw [whenIdle_of_idle hb]
      cases hv : s.valid with
      | true => simpa [acceptDecrypt, withContext, hv] using CommandEffect.decrypt (d := .ok .decrypt) rfl hb hv
      | false =>
        simpa [acceptDecrypt, withContext, hv] using
          CommandEffect.failed (d := .ok .decrypt) (by decide) (by decide) hb ErrCode.noContext (by decide) 3
    | clear => exact ⟨_, rfl, by rw [whenIdle_of_idle hb]; exact .clear rfl hb⟩

/-- A word written to CMD always answers a next state (30_encoding.md R92: the decoder is total). -/
theorem acceptWord_effect (cw : Word) (s : State) :
    ∃ t, acceptWord cw s = .next t ∧ CommandEffect (decode cw) s t := by
  cases hd : decode cw with
  | ok i =>
    obtain ⟨t, ht, he⟩ := exec_effect i s
    exact ⟨t, by simpa [acceptWord, hd] using ht, he⟩
  | error e =>
    refine ⟨illegalCommand (opField cw) s, by simp [acceptWord, hd], ?_⟩
    cases hb : s.busy with
    | true => simpa [illegalCommand, whenIdle, hb] using CommandEffect.dropped (d := .error e) (by simp) hb
    | false =>
      simpa [illegalCommand, whenIdle, hb] using
        CommandEffect.failed (d := .error e) (by simp) (by simp) hb ErrCode.illegalCommand (by decide) (opField cw)

/-- The register found at an offset is the one the map puts there (10_state.md R21). -/
theorem ofOffset_offset {off : BitVec 12} {r : Reg} (h : Reg.ofOffset off = some r) : r.offset = off.toNat := by
  simpa using List.find?_some h

/-- A register write other than one to CMD stores in at most one register. -/
theorem writeReg_effect {r : Reg} (h : r ≠ .cmd) (d : Word) (s : State) :
    ∃ t, writeReg r d s = .next t ∧ RegisterEffect s t := by
  cases r with
  | cfg => exact ⟨_, rfl, .cfg d⟩
  | cmd => exact absurd rfl h
  | aIn => exact ⟨_, rfl, .aIn d⟩
  | bIn => exact ⟨_, rfl, .bIn d⟩
  | sIndex => exact ⟨_, rfl, .sIndex _⟩
  | key q => exact ⟨_, rfl, .key q d⟩
  | id | cap | status | ctx | aOut | bOut | sData => exact ⟨_, rfl, .nothing⟩

/-- A bus write stores in at most one register, or presents a word to CMD; then comes the response (20_memory.md R61). -/
theorem busWrite_effect (off : BitVec 12) (size : Nat) (d : Word) (s : State) :
    (∃ r t, busWrite off size d s = .next (State.respond r t) ∧ RegisterEffect s t) ∨
    (off = 0x018 ∧ size = 8 ∧ ∃ t, acceptWord d s = .next t ∧
      busWrite off size d s = .next (State.respond (.write .okay) t) ∧ CommandEffect (decode d) s t) := by
  cases hs : supported off size with
  | false => exact .inl ⟨.write .error, s, by simp [busWrite, hs], .nothing⟩
  | true =>
    have h8 : size = 8 := (of_decide_eq_true hs).1
    cases hr : Reg.ofOffset off with
    | none => exact .inl ⟨.write .okay, s, by simp [busWrite, hs, hr], .nothing⟩
    | some r =>
      by_cases hc : r = .cmd
      · subst hc
        obtain ⟨t, ht, he⟩ := acceptWord_effect d s
        have ho : off = 0x018 := BitVec.eq_of_toNat_eq (ofOffset_offset hr).symm
        exact .inr ⟨ho, h8, t, ht, by simp [busWrite, hs, hr, writeReg, ht], he⟩
      · obtain ⟨t, ht, he⟩ := writeReg_effect hc d s
        exact .inl ⟨.write .okay, t, by simp [busWrite, hs, hr, ht], he⟩

/-- Everything a Host step can do: nothing at all with an empty program; an access that stores in at most one register;
or a word presented to CMD. -/
theorem hostStep_effect (s : State) :
    (s.program = [] ∧ hostStep s = .next s) ∨
    (∃ p r t, hostStep s = .next (State.respond r t) ∧ RegisterEffect { s with program := p } t) ∨
    ∃ cw rest t, s.program = .write 0x018 8 cw :: rest ∧ acceptWord cw { s with program := rest } = .next t ∧
      hostStep s = .next (State.respond (.write .okay) t) ∧
      CommandEffect (decode cw) { s with program := rest } t := by
  rcases hp : s.program with _ | ⟨op, rest⟩
  · exact .inl ⟨rfl, by simp [hostStep, hp]⟩
  · cases op with
    | read off size => exact .inr (.inl ⟨rest, _, _, by simp only [hostStep, hp, busRead]; rfl, .nothing⟩)
    | write off size d =>
      rcases busWrite_effect off size d { s with program := rest } with ⟨r, t, ht, he⟩ | ⟨rfl, rfl, t, ha, ht, he⟩
      · exact .inr (.inl ⟨rest, r, t, by simpa [hostStep, hp] using ht, he⟩)
      · exact .inr (.inr ⟨d, rest, t, rfl, ha, by simpa [hostStep, hp] using ht, he⟩)
    | poll =>
      by_cases hb : (busReadResult 0x020 8 s).1.getLsbD 0 = true
      · exact .inr (.inl ⟨s.program, _, s, by simp only [hostStep, hp, busRead, if_pos hb]; rfl, .nothing⟩)
      · exact .inr (.inl ⟨rest, _, _, by simp only [hostStep, hp, busRead, if_neg hb]; rfl, .nothing⟩)

/-- A micro-step is the one its phase names, at the latched width (10_state.md R35). -/
theorem microStep_cases {s t : State} (h : microStep s = .next t) :
    (s.phase = .idle ∧ t = s) ∨
    ∃ w, Width.ofField s.opw = some w ∧
      ((s.phase = .ksInit ∧ ksInitStep w s = .next t) ∨ (s.phase = .ksMix ∧ ksMixStep w s = .next t) ∨
        (s.phase = .encPre ∧ encPreStep w s = .next t) ∨ (s.phase = .encRound ∧ encRoundStep w s = .next t) ∨
        (s.phase = .decRound ∧ decRoundStep w s = .next t) ∨ (s.phase = .decPost ∧ decPostStep w s = .next t)) := by
  cases hw : Width.ofField s.opw with
  | none => cases hp : s.phase <;> simp_all [microStep, atWidth]
  | some w =>
    cases hp : s.phase <;> simp only [microStep, hp, atWidth_of hw] at h
    · exact .inl ⟨rfl, by cases h; rfl⟩
    all_goals exact .inr ⟨w, rfl, by simp [h]⟩

/-- What a KS_INIT micro-step does when it goes on (41_key_schedule.md R133). -/
theorem ksInitStep_next {w : Width} {s t : State} (h : ksInitStep w s = .next t) :
    s.k.toNat < Config.sMax s.rMax ∧ ∃ v s', v = (if s.k = 0 then w.magicP else addW w (s.sTab.read (s.k.toNat - 1)) w.magicQ) ∧
      s' = { s with sTab := s.sTab.write s.k.toNat v, k := s.k + 1 } ∧
      t = if s'.k = s'.opt then startMix s' else s' := by
  simp only [ksInitStep] at h
  split at h
  · rename_i hk
    exact ⟨hk, _, _, rfl, rfl, (Host.Outcome.next.inj h).symm⟩
  · cases h

/-- What a KS_MIX micro-step does when it goes on (41_key_schedule.md R134, R136). -/
theorem ksMixStep_next {w : Width} {s t : State} (h : ksMixStep w s = .next t) :
    s.wi.toNat < Config.sMax s.rMax ∧ s.wj.toNat < Config.lMax ∧ ∃ a b s',
      a = mixA w (s.sTab.read s.wi.toNat) s.wa s.wb ∧ b = mixB w (s.lArr.read s.wj.toNat) a s.wb ∧
      s' = { s with
        wa := a, sTab := s.sTab.write s.wi.toNat a
        wb := b, lArr := s.lArr.write s.wj.toNat b
        wi := BitVec.ofNat 32 ((s.wi.toNat + 1) % s.opt.toNat)
        wj := BitVec.ofNat 32 ((s.wj.toNat + 1) % s.opc.toNat)
        k := s.k + 1 } ∧
      t = if s'.k.toNat = mixCount s'.opt.toNat s'.opc.toNat then finishBuild s' else s' := by
  simp only [ksMixStep] at h
  split at h
  · rename_i hk
    exact ⟨hk.1, hk.2, _, _, _, rfl, rfl, rfl, (Host.Outcome.next.inj h).symm⟩
  · cases h

/-- What an ENC_ROUND micro-step does when it goes on (42_block_cipher.md R155). -/
theorem encRoundStep_next {w : Width} {s t : State} (h : encRoundStep w s = .next t) :
    2 * s.k.toNat + 1 < Config.sMax s.rMax ∧ ∃ s',
      s' = s.setWords (encryptRound w s.sTab.read s.k.toNat (s.wa, s.wb)) ∧
      t = if s.k = s.opr then finishBlock s' else { s' with k := s.k + 1 } := by
  simp only [encRoundStep] at h
  split at h
  · rename_i hk
    exact ⟨hk, _, rfl, (Host.Outcome.next.inj h).symm⟩
  · cases h

/-- What a DEC_ROUND micro-step does when it goes on (42_block_cipher.md R158). -/
theorem decRoundStep_next {w : Width} {s t : State} (h : decRoundStep w s = .next t) :
    2 * s.k.toNat + 1 < Config.sMax s.rMax ∧ ∃ s',
      s' = s.setWords (decryptRound w s.sTab.read s.k.toNat (s.wa, s.wb)) ∧
      t = if s.k = 1 then { s' with phase := .decPost } else { s' with k := s.k - 1 } := by
  simp only [decRoundStep] at h
  split at h
  · rename_i hk
    exact ⟨hk, _, rfl, (Host.Outcome.next.inj h).symm⟩
  · cases h

/-- A step is the turn of whoever moves next, with that turn taken off the schedule (20_memory.md R73). -/
theorem step_turn (s : State) : step s = takeTurn s.turn { s with schedule := s.schedule.tail } := by
  rcases hs : s.schedule with _ | ⟨t, rest⟩
  · have e : { s with schedule := ([] : List Turn) } = s := by rw [← hs]
    simp [step, nextEvent, hs, State.turn, e]
  · simp [step, nextEvent, hs, State.turn]

/-- Everything a step can do: a reset, a micro-step, or one of the Host's. -/
theorem step_cases {s t : State} (h : step s = .next t) :
    (s.turn = .reset ∧ t = resetInput { s with schedule := s.schedule.tail }) ∨
    (s.turn = .engine ∧ microStep { s with schedule := s.schedule.tail } = .next t) ∨
    (s.turn = .host ∧ s.program = [] ∧ t = { s with schedule := s.schedule.tail }) ∨
    (s.turn = .host ∧ ∃ p r u, t = State.respond r u ∧
      RegisterEffect { s with schedule := s.schedule.tail, program := p } u) ∨
    (s.turn = .host ∧ ∃ cw rest u, s.program = .write 0x018 8 cw :: rest ∧ t = State.respond (.write .okay) u ∧
      CommandEffect (decode cw) { s with schedule := s.schedule.tail, program := rest } u) := by
  rw [step_turn] at h
  cases ht : s.turn with
  | reset =>
    rw [ht] at h
    exact .inl ⟨rfl, (Host.Outcome.next.inj h).symm⟩
  | engine =>
    rw [ht] at h
    exact .inr (.inl ⟨rfl, h⟩)
  | host =>
    rw [ht] at h
    rcases hostStep_effect { s with schedule := s.schedule.tail } with
      ⟨hp, he⟩ | ⟨p, r, u, he, hu⟩ | ⟨cw, rest, u, hp, _, he, hu⟩
    · exact .inr (.inr (.inl ⟨rfl, hp, Host.Outcome.next.inj (h.symm.trans he)⟩))
    · exact .inr (.inr (.inr (.inl ⟨rfl, p, r, u, Host.Outcome.next.inj (h.symm.trans he), hu⟩)))
    · exact .inr (.inr (.inr (.inr ⟨rfl, cw, rest, u, hp, Host.Outcome.next.inj (h.symm.trans he), hu⟩)))

@[simp] theorem runSteps_zero (s : State) : runSteps 0 s = .next s := rfl

/-- One step, then the rest of the run. -/
theorem runSteps_succ {s t : State} (h : step s = .next t) (n : Nat) : runSteps (n + 1) s = runSteps n t := by
  have h' : core.step s = .next t := h
  simp only [runSteps, Host.Core.run, h']
  rfl

@[simp] theorem microSteps_zero (s : State) : microSteps 0 s = .next s := rfl

theorem microSteps_succ {s t : State} (h : microStep s = .next t) (n : Nat) :
    microSteps (n + 1) s = microSteps n t := by
  simp only [microSteps, h]

/-- Micro-steps one after another: m of them, then n more. -/
theorem microSteps_add {s t : State} {m : Nat} (h : microSteps m s = .next t) (n : Nat) :
    microSteps (m + n) s = microSteps n t := by
  induction m generalizing s with
  | zero =>
    cases h
    simp
  | succ m ih =>
    simp only [microSteps] at h
    split at h
    · rename_i u hu
      rw [Nat.add_right_comm, microSteps_succ hu]
      exact ih h
    · cases h
    · cases h

end Sys2Proof.Machine
end

