-- ==== Sys2Proof/Tests/Slice0.lean ====
section
/-! SUPPORT. The model's own tests, each on a fixed value taken from spec/ (95_test_vectors.md, or the example of the rule
named), and for every statement with hypotheses a witness that they can be met together. -/

namespace Sys2Proof.Tests

open Sys2Proof.Machine

/-! Small states. -/

/-- An idle engine that holds the context KS1 (w = 16, r = 0, empty key), as BUILD left it; the input block of BC10. -/
def withKs1 : State :=
  { State.reset with
    cfgW := 16, cfgR := 0, cfgB := 0, ctxW := 16, valid := true, done := true, lastOp := 1
    sTab := [(0, 0x7865), (1, 0x33F4)], aIn := 0xFFFFFFFFFFFF0001, bIn := 2 }

/-- An idle engine that holds the context KS4 (w = 16, r = 1, key 01 02), with a result in A_OUT and B_OUT. -/
def withKs4 : State :=
  { State.reset with
    ctxW := 16, ctxR := 1, valid := true, done := true, lastOp := 1
    sTab := [(0, 0x71EB), (1, 0x32D1), (2, 0x2AEF), (3, 0xCFC6)], aOut := 7, bOut := 8 }

/-- A BUILD with w = 32, r = 12 and the zero key of 16 bytes, in KS_INIT with k entries done. -/
def inKsInit (k : Nat) (tab : Memory) : State :=
  { State.reset with
    phase := .ksInit, lastOp := 1, opw := 32, opr := 12, opt := 26, opc := 4, k := BitVec.ofNat 32 k, sTab := tab }

/-- A BUILD with w = 16, r = 0 and the empty key, in KS_MIX with k passes done: P_16, P_16 + Q_16 in the table. -/
def inKsMix (k : Nat) : State :=
  { State.reset with
    phase := .ksMix, lastOp := 1, opw := 16, opr := 0, opt := 2, opc := 1, k := BitVec.ofNat 32 k
    sTab := [(0, 0xB7E1), (1, 0x5618)] }

/-- A block command of the context KS4 in the given phase. -/
def inBlock (p : Phase) (op : BitVec 4) (k : Nat) : State :=
  { withKs4 with phase := p, lastOp := op, done := false, opw := 16, opr := 1, k := BitVec.ofNat 32 k }

/-- A block command of the context KS9 (w = 32, r = 12, zero key), with the entries of its table that the spec prints. -/
def inKs9 (p : Phase) (k : Nat) (a b : Word) : State :=
  { State.reset with
    ctxW := 32, ctxR := 12, valid := true, phase := p, opw := 32, opr := 12, k := BitVec.ofNat 32 k
    sTab := [(0, 0x9BBBD8C8), (1, 0x1A37F7FB), (2, 0x46F8E8C5), (3, 0x460C6085), (24, 0xF6CC1431), (25, 0x65046380)]
    wa := a, wb := b }

/-- The working words after a step. -/
def words : Result → Option (Word × Word) := fun r => (nextOf r).map (fun s => (s.wa, s.wb))

/-- The STATUS word after a step. -/
def status : Result → Option Word := fun r => (nextOf r).map State.statusWord

/-! Decoding: each command's word bit by bit, from 30_encoding.md R90 and R91. -/

theorem test_decode_nop_word :
    decode 0b0000000000000000000000000000000000000000000000000000000000000000 = .ok .nop ∧ decodeTableWord 64 0b0000000000000000000000000000000000000000000000000000000000000000 = some .nop := by decide

theorem test_decode_build_word :
    decode 0b0000000000000000000000000000000000000000000000000000000000000001 = .ok .build ∧ decodeTableWord 64 0b0000000000000000000000000000000000000000000000000000000000000001 = some .build := by decide

theorem test_decode_encrypt_word :
    decode 0b0000000000000000000000000000000000000000000000000000000000000010 = .ok .encrypt ∧ decodeTableWord 64 0b0000000000000000000000000000000000000000000000000000000000000010 = some .encrypt := by decide

theorem test_decode_decrypt_word :
    decode 0b0000000000000000000000000000000000000000000000000000000000000011 = .ok .decrypt ∧ decodeTableWord 64 0b0000000000000000000000000000000000000000000000000000000000000011 = some .decrypt := by decide

theorem test_decode_clear_word :
    decode 0b0000000000000000000000000000000000000000000000000000000000000100 = .ok .clear ∧ decodeTableWord 64 0b0000000000000000000000000000000000000000000000000000000000000100 = some .clear := by decide

/-- 95_test_vectors.md DC6 to DC9. -/
theorem test_decode_illegal_words :
    decode 0x5 = .error .reservedOpcode ∧ decode 0xF = .error .reservedOpcode ∧ decode 0x10 = .error .reservedBits ∧
    decode 0x12 = .error .reservedBits ∧ decode 0x8000000000000001 = .error .reservedBits := by decide

/-- Lane 0 is the first byte (20_memory.md R70); fewer than eight bytes are no command word. -/
theorem test_decode_bytes :
    decodeBytes [3, 0, 0, 0, 0, 0, 0, 0, 9] = .ok (.decrypt, [9]) ∧
    decodeBytes [0, 0, 0, 0, 0, 0, 0, 3] = .error .reservedBits ∧
    decodeBytes [3, 0, 0, 0, 0, 0, 0] = .error .truncated := by decide

/-! Well-formedness: the ill-formed terms are refused (00_scope.md R6, 10_state.md R24, R34). -/

theorem test_smoke_r_max_below_32 : Config.wellFormed 31 = false ∧ Config.wellFormed 32 = true := by decide

theorem test_smoke_setcfg_fields :
    (HostLine.setcfg 256 0 0).wellFormed = false ∧ (HostLine.setcfg 0 (2 ^ 32) 0).wellFormed = false ∧
    (HostLine.setcfg 0 0 (2 ^ 16)).wellFormed = false ∧
    (HostLine.setcfg 255 (2 ^ 32 - 1) (2 ^ 16 - 1)).wellFormed = true := by decide

theorem test_smoke_loadkey_too_long (bytes : List Byte) :
    (bytes.length = 257 → (HostLine.loadkey bytes).wellFormed = false) ∧
    (bytes.length = 256 → (HostLine.loadkey bytes).wellFormed = true) := by
  constructor <;> intro h <;> simp [HostLine.wellFormed, h]

/-- A command has no field that could be out of range (30_encoding.md R93). -/
theorem test_smoke_commands :
    Instr.nop.wellFormed = true ∧ Instr.build.wellFormed = true ∧ Instr.encrypt.wellFormed = true ∧
    Instr.decrypt.wellFormed = true ∧ Instr.clear.wellFormed = true := by decide

/-! The datapath: 95_test_vectors.md section 2.1. -/

/-- DP1 to DP6. -/
theorem test_datapath_arithmetic :
    addW .w16 0xFFFF 0x0001 = 0 ∧ addW .w32 0xFFFFFFFF 0xFFFFFFFF = 0xFFFFFFFE ∧
    addW .w64 0xFFFFFFFFFFFFFFFF 2 = 1 ∧ subW .w16 0 1 = 0xFFFF ∧ subW .w32 0 0xB7E15163 = 0x481EAE9D ∧
    subW .w64 0 1 = 0xFFFFFFFFFFFFFFFF := by decide

/-- DP8 to DP22, less DP16 and DP18. -/
theorem test_datapath_rotations :
    rotlW .w16 0x8001 1 = 0x0003 ∧ rotrW .w16 0x8001 1 = 0xC000 ∧ rotlW .w16 0x1234 16 = 0x1234 ∧
    rotlW .w16 0x1234 17 = 0x2468 ∧ rotrW .w16 0x1234 17 = 0x091A ∧ rotrW .w16 0xABCD 20 = 0xDABC ∧
    rotlW .w32 0x80000000 31 = 0x40000000 ∧ rotrW .w32 0x80000000 31 = 0x00000001 ∧
    rotlW .w32 0x12345678 36 = 0x23456781 ∧ rotlW .w64 0x8000000000000001 63 = 0xC000000000000000 ∧
    rotrW .w64 0x8000000000000001 63 = 0x0000000000000003 ∧
    rotlW .w64 0x0123456789ABCDEF 68 = 0x123456789ABCDEF0 ∧
    rotrW .w64 0x0123456789ABCDEF 68 = 0xF0123456789ABCDE := by decide

/-- W1. -/
theorem test_magic_constants :
    Width.w16.magicP = 0xB7E1 ∧ Width.w16.magicQ = 0x9E37 ∧ Width.w32.magicP = 0xB7E15163 ∧
    Width.w32.magicQ = 0x9E3779B9 ∧ Width.w64.magicP = 0xB7E151628AED2A6B ∧
    Width.w64.magicQ = 0x9E3779B97F4A7C15 := by decide

/-! Key packing: KP1 to KP4. -/

theorem test_key_words :
    keyWords .w16 [] = [0] ∧ keyWords .w16 [0xAA] = [0x00AA] ∧
    keyWords .w32 [1, 2, 3, 4, 5] = [0x04030201, 0x00000005] ∧
    keyWords .w64 [0, 1, 2, 3, 4, 5, 6, 7, 8] = [0x0706050403020100, 8] := by decide

/-- 10_state.md R34: key byte 8 is the low byte of KEY[1]. -/
theorem test_key_bytes :
    keyBytes [(0, 0x0706050403020100), (1, 0x1F08)] 10 = [0, 1, 2, 3, 4, 5, 6, 7, 8, 0x1F] := by decide

/-! The commands, one step each: sections 2.5 and 2.6. -/

/-- The example of 43_control.md R170. -/
theorem test_nop_leaves_status :
    status (acceptWord 0 { withKs1 with lastOp := 2 }) = some 0x20006 ∧
    status (acceptWord 0 (inKsMix 0)) = some 0x10001 := by decide

/-- ER1 to ER4: the checks of BUILD and their order. -/
theorem test_build_errors :
    status (execBuild (State.reset.writeCfg 0x11)) = some 0x10104 ∧
    status (execBuild (State.reset.writeCfg 0x0000000C00010020)) = some 0x10204 ∧
    status (execBuild (State.reset.writeCfg 0x0000010000001020)) = some 0x10304 ∧
    status (execBuild (State.reset.writeCfg 0x0000010000010011)) = some 0x10104 := by decide

/-- 41_key_schedule.md R131 with the key of KP3: c = 2, t = 26, the key words in L. -/
theorem test_build_latches :
    (nextOf (execBuild { (State.reset.writeCfg 0x0000000C00000520) with key := [(0, 0xFF0504030201)] })).map
      (fun s => (s.phase, s.opt, s.opc, s.lArr)) = some (.ksInit, 26, 2, [(0, 0x04030201), (1, 5)]) := by decide

/-- ER5, and ER8's drop. -/
theorem test_encrypt_not_accepted :
    status (execEncrypt State.reset) = some 0x20404 ∧ status (execEncrypt (inKsMix 0)) = some 0x10009 := by decide

/-- BC10: the bits of A_IN above w are ignored (30_encoding.md R95). -/
theorem test_encrypt_latches : words (execEncrypt withKs1) = some (1, 2) := by decide

/-- 42_block_cipher.md R157: DECRYPT with r = 0 starts in DEC_POST, with r = 1 in DEC_ROUND at K = 1. -/
theorem test_decrypt_starts :
    (nextOf (execDecrypt withKs1)).map (fun s => (s.phase, s.k)) = some (.decPost, 0) ∧
    (nextOf (execDecrypt withKs4)).map (fun s => (s.phase, s.k)) = some (.decRound, 1) := by decide

theorem test_decrypt_no_context : status (execDecrypt State.reset) = some 0x30404 := by decide

/-- The example of 43_control.md R171. -/
theorem test_clear :
    status (execClear withKs4) = some 0x40004 ∧
    (nextOf (execClear withKs4)).map (fun s => (s.ctxWord, s.sData, s.aOut, s.sTab)) = some (0, 0, 0, []) := by decide

/-- ER6, with a context held. -/
theorem test_illegal_word_keeps_context : status (acceptWord 0x7 withKs1) = some 0x70506 := by decide

/-! The micro-steps. -/

/-- The example of 41_key_schedule.md R133: the first entries of the table for w = 32. -/
theorem test_ks_init :
    (nextOf (microStep (inKsInit 0 []))).map State.sTab = some [(0, 0xB7E15163)] ∧
    (nextOf (microStep (inKsInit 1 [(0, 0xB7E15163)]))).map State.sTab =
      some [(0, 0xB7E15163), (1, 0x5618CB1C)] := by decide

/-- The example of 41_key_schedule.md R134: the first mixing step of KS9. -/
theorem test_ks_mix :
    words (microStep { (inKsInit 0 [(0, 0xB7E15163)]) with phase := .ksMix }) =
      some (0xBF0A8B1D, 0xB7E15163) := by decide

/-- The example of 42_block_cipher.md R154. -/
theorem test_enc_pre : words (microStep (inKs9 .encPre 0 0 0)) = some (0x9BBBD8C8, 0x1A37F7FB) := by decide

/-- The example of 42_block_cipher.md R155. -/
theorem test_enc_round :
    words (microStep (inKs9 .encRound 1 0x9BBBD8C8 0x1A37F7FB)) = some (0xE3054A3E, 0xC4590FF6) := by decide

/-- The example of 42_block_cipher.md R158. -/
theorem test_dec_round :
    words (microStep (inKs9 .decRound 12 0xEEDBA521 0x6D8F4B15)) = some (0x7481D719, 0x6A9ED6EB) := by decide

/-- The example of 42_block_cipher.md R159, and the completion of R160. -/
theorem test_dec_post :
    (nextOf (microStep { withKs1 with phase := .decPost, opw := 16, wa := 0x7866, wb := 0x33F6 })).map
      (fun s => (s.aOut, s.bOut, s.phase)) = some (1, 2, .idle) := by decide

/-! The bus: section 2.7. -/

/-- BA1, BA2, BA3, BA5, BA8. -/
theorem test_bus_reads :
    busReadResult 0x000 8 State.reset = (0x0000000700524335, .okay) ∧
    busReadResult 0x008 8 State.reset = (0x000000FF0000FF07, .okay) ∧
    busReadResult 0x021 8 State.reset = (0, .error) ∧ busReadResult 0x800 8 State.reset = (0, .okay) ∧
    busReadResult 0x018 8 State.reset = (0, .okay) := by decide

/-- 10_state.md R27, R30, R31, with different values in the three registers. -/
theorem test_context_and_output_reads :
    busReadResult 0x028 8 withKs4 = (0x0000000100000010, .okay) ∧ busReadResult 0x040 8 withKs4 = (7, .okay) ∧
    busReadResult 0x048 8 withKs4 = (8, .okay) := by decide

/-- BA4, BA6, BA7. -/
theorem test_bus_writes :
    nextOf (busWrite 0x018 4 1 State.reset) = some { State.reset with busResult := some (.write .error) } ∧
    status (busWrite 0x020 8 5 State.reset) = some 0 ∧
    (nextOf (busWrite 0x010 8 0xFFFFFFFFFFFFFFFF State.reset)).map State.cfgWord = some 0xFFFFFFFF00FFFFFF := by decide

/-- BA9, and the last entry of the table, with VALID = 1 and CTX.R = 12. -/
theorem test_s_data_bound :
    busReadResult 0x058 8 { (inKs9 .idle 0 0 0) with sIndex := 26 } = (0, .okay) ∧
    busReadResult 0x058 8 { (inKs9 .idle 0 0 0) with sIndex := 25 } = (0x65046380, .okay) := by decide

/-- The host-program notation of P3 and P2: `SETCFG 16, 0, 256`, and the words of LOADKEY. -/
theorem test_pseudo_instructions :
    (HostLine.setcfg 16 0 256).expand = [.write 0x010 8 0x10010] ∧
    (HostLine.loadkey [0x91, 0x5F, 0x46, 0x19, 0xBE, 0x41, 0xB2, 0x51, 0x63]).expand =
      [.write 0x100 8 0x51B241BE19465F91, .write 0x108 8 0x63] := by decide

/-- 20_memory.md R72 on the ciphertext of V1: bytes 21 A5 DB EE 15 4B 8F 6D. -/
theorem test_block_bytes :
    blockWords .w32 [0x21, 0xA5, 0xDB, 0xEE, 0x15, 0x4B, 0x8F, 0x6D] = (0xEEDBA521, 0x6D8F4B15) ∧
    blockBytes .w32 (0xEEDBA521, 0x6D8F4B15) = [0x21, 0xA5, 0xDB, 0xEE, 0x15, 0x4B, 0x8F, 0x6D] := by decide

/-- A command stored where the next step fetches it runs in that step (log 7). -/
theorem test_fetched_command_runs :
    status (step (State.reset.withFetchWord 64 2)) = some 0x20404 ∧
    status (step (State.reset.withFetchWord 64 1)) = some 0x10001 := by decide

/-! Witnesses: for every statement of Certificates/Slice0/Obligations.lean that has hypotheses, values that meet all of
them together, at the boundary of the range where there is one. -/

theorem test_inv_reset : State.reset.Inv := by constructor <;> decide

theorem test_inv_withKs1 : withKs1.Inv := by constructor <;> decide

theorem test_inv_withKs4 : withKs4.Inv := by constructor <;> decide

/-- The first and the last KS_INIT step (of a table of two entries). -/
theorem test_inv_inKsInit : (inKsInit 0 []).Inv ∧ ({ inKsMix 1 with phase := .ksInit } : State).Inv := by
  constructor <;> constructor <;> decide

/-- The first and the last KS_MIX step. -/
theorem test_inv_inKsMix : (inKsMix 0).Inv ∧ (inKsMix 5).Inv := by constructor <;> constructor <;> decide

theorem test_inv_inBlock :
    (inBlock .encPre 2 0).Inv ∧ (inBlock .encRound 2 1).Inv ∧ (inBlock .decRound 3 1).Inv ∧
    (inBlock .decPost 3 0).Inv := by
  refine ⟨?_, ?_, ?_, ?_⟩ <;> constructor <;> decide

theorem test_keyInv_idle : withKs1.KeyInv :=
  ⟨fun _ => ⟨.w16, [], by decide, by decide, by unfold holdsKeySchedule; decide⟩, fun h => absurd h (by decide),
    fun h => absurd h (by decide)⟩

theorem test_keyInv_ksInit : (inKsInit 0 []).KeyInv :=
  ⟨fun h => absurd h (by decide),
    fun _ => ⟨.w32, List.replicate 16 0, by unfold State.buildsFrom; decide, by decide, by decide⟩,
    fun h => absurd h (by decide)⟩

theorem test_keyInv_ksMix : (inKsMix 0).KeyInv :=
  ⟨fun h => absurd h (by decide), fun h => absurd h (by decide),
    fun _ => ⟨.w16, [], _, by unfold State.buildsFrom; decide, rfl, by decide, by decide, by decide⟩⟩

/-- Two states that differ in every register and table reset leaves unspecified, idle with a context. -/
theorem test_agree_idle :
    withKs1.Agree { withKs1 with
      k := 5, opw := 1, opr := 2, opt := 3, opc := 4, wa := 9, wb := 8, wi := 9, wj := 9
      lArr := [(3, 3)], sTab := [(0, 0x7865), (1, 0x33F4), (2, 7)] } := by constructor <;> decide

theorem test_agree_busy :
    (inBlock .encRound 2 1).Agree { inBlock .encRound 2 1 with opt := 3, opc := 4, wi := 9, wj := 9, lArr := [(3, 3)] } ∧
    ({ inBlock .encRound 2 1 with opt := 3, opc := 4, wi := 9, wj := 9, lArr := [(3, 3)] } : State).Inv := by
  constructor <;> constructor <;> decide

theorem test_meets_OpcodeMapDecodes : 5 ≤ (5 : BitVec 4).toNat ∧ 5 ≤ (15 : BitVec 4).toNat := by decide

theorem test_meets_IllegalWordIsRecorded :
    withKs1.busy = false ∧ 5 ≤ ((0x5 : Word).extractLsb' 0 4).toNat ∧ 5 ≤ ((0xF : Word).extractLsb' 0 4).toNat ∧
    (0x10 : Word).extractLsb' 4 60 ≠ 0 := by decide

theorem test_meets_NopChangesNothing :
    decode 0 = .ok .nop ∧ (0x10 : Word).extractLsb' 0 4 = 0 ∧ (0x10 : Word) ≠ 0 := by decide

/-- The boundaries of the three checks: B = 255 and R = R_MAX pass, one more fails, W = 15 and W = 65 fail. -/
theorem test_meets_BuildAcceptance :
    ∃ ok tooLong tooManyRounds narrow wide : State,
      (ok.busy = false ∧ ok.cfgW.toNat = Width.w64.bits ∧ ok.cfgB.toNat = 255 ∧ ok.cfgR.toNat = ok.rMax.toNat ∧
        ok.lArr.wf = true) ∧
      (tooLong.busy = false ∧ tooLong.cfgW.toNat = Width.w16.bits ∧ tooLong.cfgB.toNat = 256) ∧
      (tooManyRounds.busy = false ∧ tooManyRounds.cfgW.toNat = Width.w32.bits ∧ tooManyRounds.cfgB.toNat ≤ 255 ∧
        tooManyRounds.cfgR.toNat = tooManyRounds.rMax.toNat + 1) ∧
      (narrow.busy = false ∧ narrow.cfgW.toNat = 15) ∧ (wide.busy = false ∧ wide.cfgW.toNat = 65) :=
  ⟨State.reset.writeCfg 0x000000FF0000FF40, State.reset.writeCfg 0x0000000C00010010,
    State.reset.writeCfg 0x0000010000001020, State.reset.writeCfg 0x0000000C0000100F,
    State.reset.writeCfg 0x0000000C00001041, by decide⟩

/-- The same values, for the codes: 1 with W = 17, 2 with B = 256, 3 with R = R_MAX + 1. -/
theorem test_meets_FailedBuildStatusWord :
    (withKs1.writeCfg 0x11).busy = false ∧ (withKs1.writeCfg 0x11).cfgW.toNat = 17 ∧
    (withKs1.writeCfg 0x10010).cfgW.toNat = Width.w16.bits ∧ 255 < (withKs1.writeCfg 0x10010).cfgB.toNat ∧
    (withKs1.writeCfg 0x0000010000001020).cfgW.toNat = Width.w32.bits ∧
    (withKs1.writeCfg 0x0000010000001020).cfgB.toNat ≤ 255 ∧
    withKs1.rMax.toNat < (withKs1.writeCfg 0x0000010000001020).cfgR.toNat := by decide

/-- With a context of no rounds, with one of a round, and with none. -/
theorem test_meets_EncryptAcceptance_and_DecryptAcceptance :
    withKs1.busy = false ∧ withKs1.valid = true ∧ withKs1.ctxR.toNat = 0 ∧
    withKs4.busy = false ∧ withKs4.valid = true ∧ withKs4.ctxR.toNat = 1 ∧
    State.reset.busy = false ∧ State.reset.valid = false := by decide

theorem test_meets_BlockCommandWithoutContext :
    State.reset.busy = false ∧ State.reset.valid = false ∧ (inKsMix 0).busy = true := by decide

theorem test_meets_ClearDropsContextAndKeys : withKs1.busy = false ∧ State.reset.busy = false := by decide

theorem test_meets_BusyEngineDropsCommands :
    (inKsMix 0).busy = true ∧ (1 : Word) ≠ 0 ∧ Instr.build ≠ .nop := by decide

theorem test_meets_OverrunAndErrorLast :
    (∃ t, (inKsMix 0).busy = true ∧ acceptWord 7 (inKsMix 0) = .next t) ∧
    (∃ t, microStep (inKsMix 5) = .next t ∧ t.phase = .idle) ∧
    (∃ t, withKs4.busy = false ∧ acceptWord 2 withKs4 = .next t ∧ t.phase ≠ .idle) ∧
    (∃ t, decode 4 = .ok .clear ∧ acceptWord 4 withKs4 = .next t) ∧
    (∃ t, ({ inKsMix 0 with schedule := [.reset] } : State).turn = .reset ∧
      step { inKsMix 0 with schedule := [.reset] } = .next t) ∧
    ∃ t, step { inKsMix 0 with overrun := true } = .next t :=
  ⟨⟨_, by decide, rfl⟩, ⟨_, rfl, by decide⟩, ⟨_, by decide, rfl, by decide⟩, ⟨_, by decide, rfl⟩, ⟨_, by decide, rfl⟩,
    ⟨_, rfl⟩⟩

theorem test_meets_ErrorRecordingChangesOnlyStatus :
    ∃ t, withKs1.busy = false ∧ acceptWord 7 withKs1 = .next t ∧ t.err ≠ .noError := ⟨_, by decide, rfl, by decide⟩

/-- Every command answers a next state from one idle state. -/
theorem test_meets_CommandFrame : ∀ i : Instr, ∃ t, exec i withKs4 = .next t := fun i => by cases i <;> exact ⟨_, rfl⟩

theorem test_meets_BuildWritesExactlyTheKeyWords :
    ∃ t, State.reset.busy = false ∧ State.reset.cfgW.toNat = Width.w32.bits ∧ State.reset.cfgB.toNat ≤ 255 ∧
      State.reset.cfgR.toNat ≤ State.reset.rMax.toNat ∧ State.reset.lArr.wf = true ∧
      exec .build State.reset = .next t := ⟨_, by decide, by decide, by decide, by decide, by decide, rfl⟩

theorem test_meets_UnsupportedAccessGetsError :
    (7 : Nat) ≠ 8 ∧ (9 : Nat) ≠ 8 ∧ (0x021 : BitVec 12).toNat % 8 ≠ 0 ∧ (0x027 : BitVec 12).toNat % 8 ≠ 0 := by decide

theorem test_meets_ReservedOffsetsReadZero :
    ∀ off ∈ ([0x060, 0x0F8, 0x200, 0xFF8] : List (BitVec 12)), off.toNat % 8 = 0 ∧
      ((0x060 ≤ off.toNat ∧ off.toNat ≤ 0x0F8) ∨ (0x200 ≤ off.toNat ∧ off.toNat ≤ 0xFF8)) := by decide

theorem test_meets_ReadOnlyRegistersIgnoreWrites :
    (0x058 : BitVec 12) ∈ ([0x000, 0x008, 0x020, 0x028, 0x040, 0x048, 0x058] : List (BitVec 12)) := by decide

theorem test_meets_RegisterAccessEffects :
    ({ State.reset with key := [(0, 1), (31, 2)] } : State).key.wf = true ∧ 255 < 256 := by decide

theorem test_meets_ReservedFieldsReadZero : (0x10 : Word).extractLsb' 4 60 ≠ 0 := by decide

/-- The last index of the table, the first beyond it, and no context. -/
theorem test_meets_SDataWindow :
    (withKs4.valid = true ∧ ({ withKs4 with sIndex := 3 } : State).sIndex.toNat < 2 * withKs4.ctxR.toNat + 2) ∧
    2 * withKs4.ctxR.toNat + 2 ≤ ({ withKs4 with sIndex := 4 } : State).sIndex.toNat ∧ State.reset.valid = false := by
  decide

/-- The widest fields of SETCFG; a key that fills the buffer, and one of no bytes. -/
theorem test_meets_SetcfgAndLoadkeyFillTheirRegisters :
    (255 < 2 ^ 8 ∧ 2 ^ 32 - 1 < 2 ^ 32 ∧ 2 ^ 16 - 1 < 2 ^ 16) ∧
    ∀ bytes : List Byte, bytes = List.replicate 256 0xAB ∨ bytes = [] → ∃ s : State, bytes.length ≤ 256 ∧
      s.key.wf = true ∧ s.program = (HostLine.loadkey bytes).expand ++ [] ∧
      s.schedule = List.replicate ((bytes.length + 7) / 8) Turn.host ++ [] := by
  refine ⟨by decide, fun bytes h => ⟨{ State.reset with
    program := (HostLine.loadkey bytes).expand ++ []
    schedule := List.replicate ((bytes.length + 7) / 8) Turn.host ++ [] }, ?_, rfl, rfl, rfl⟩⟩
  rcases h with rfl | rfl
  · rw [List.length_replicate]
  · decide

theorem test_meets_ResetRegisterValues :
    ((0x010, 0x0000000C00001020) : BitVec 12 × Word) ∈
      ([(0x000, 0x0000000700524335), (0x010, 0x0000000C00001020)] : List (BitVec 12 × Word)) := by decide

theorem test_meets_ResetInputStep :
    ({ inKsMix 0 with schedule := [.reset, .engine] } : State).schedule = .reset :: [.engine] := rfl

/-- A command word, an illegal word, and the fetched word, each at the head of the Host's program. -/
theorem test_meets_StepRunsTheDecodedCommand :
    (∃ s : State, s.program = .write 0x018 8 2 :: [] ∧ s.schedule = .host :: [.engine] ∧ decode 2 = .ok .encrypt) ∧
    (∃ s : State, s.program = .write 0x018 8 4 :: [] ∧ s.schedule = [] ∧ s.busy = false ∧ decode 4 = .ok .clear) ∧
    (∃ s : State, s.program = .write 0x018 8 7 :: [] ∧ s.schedule = .host :: [] ∧
      decode 7 = .error .reservedOpcode) ∧
    decodeTableWord 64 1 = some .build :=
  ⟨⟨{ withKs1 with program := [.write 0x018 8 2], schedule := [.host, .engine] }, by decide⟩,
    ⟨{ withKs1 with program := [.write 0x018 8 4] }, by decide⟩,
    ⟨{ withKs1 with program := [.write 0x018 8 7], schedule := [.host] }, by decide⟩, by decide⟩

theorem test_meets_EngineTurns :
    (withKs1.phase = .idle ∧ withKs1.schedule = [] ∧ withKs1.program = []) ∧
    ({ withKs1 with schedule := [.engine] } : State).schedule = .engine :: [] ∧
    ((inKsMix 0).schedule = [] ∧ (inKsMix 0).phase ≠ .idle) := by decide

/-- The largest words of each width. -/
theorem test_meets_datapath_statements :
    (0xFFFF : Word).toNat < 2 ^ Width.w16.bits ∧ (0xFFFFFFFF : Word).toNat < 2 ^ Width.w32.bits ∧
    (0xFFFFFFFFFFFFFFFF : Word).toNat < 2 ^ Width.w64.bits ∧ 15 < Width.w16.bits ∧ Width.w16.bits ≤ 16 := by decide

/-- The last byte of the last word of the key of KP3. -/
theorem test_meets_KeyWordsAreLittleEndian :
    1 < (keyWords .w32 [1, 2, 3, 4, 5]).length ∧ 3 < Width.w32.bits / 8 ∧ 0 < (keyWords .w16 []).length := by decide

/-- The first step (w = 32), the last one (w = 16), and the constants of each width. -/
theorem test_meets_KsInitMicroSteps :
    ((inKsInit 0 []).Inv ∧ (inKsInit 0 []).phase = .ksInit ∧ (inKsInit 0 []).opw.toNat = Width.w32.bits ∧
      (inKsInit 0 []).k = 0) ∧
    (({ inKsMix 1 with phase := .ksInit } : State).Inv ∧ (inKsMix 1).opw.toNat = Width.w16.bits ∧
      (inKsMix 1).k.toNat + 1 = (inKsMix 1).opt.toNat) ∧
    ∀ w : Width, ∃ p q, (w, p, q) ∈ ([(.w16, 0xB7E1, 0x9E37), (.w32, 0xB7E15163, 0x9E3779B9),
      (.w64, 0xB7E151628AED2A6B, 0x9E3779B97F4A7C15)] : List (Width × Nat × Nat)) :=
  ⟨⟨test_inv_inKsInit.1, by decide⟩, ⟨test_inv_inKsInit.2, by decide⟩,
    fun w => by cases w <;> exact ⟨_, _, by simp; exact ⟨rfl, rfl⟩⟩⟩

theorem test_meets_KsMixMicroStep :
    ((inKsMix 0).Inv ∧ (inKsMix 0).phase = .ksMix ∧ (inKsMix 0).opw.toNat = Width.w16.bits) ∧
    ((inKsMix 5).Inv ∧ (inKsMix 5).k.toNat + 1 = 3 * max (inKsMix 5).opt.toNat (inKsMix 5).opc.toNat) :=
  ⟨⟨test_inv_inKsMix.1, by decide⟩, test_inv_inKsMix.2, by decide⟩

theorem test_meets_BuildComputesTheKeySchedule :
    State.reset.busy = false ∧ State.reset.cfgW.toNat = Width.w32.bits ∧ State.reset.cfgB.toNat ≤ 255 ∧
    State.reset.cfgR.toNat ≤ State.reset.rMax.toNat ∧ State.reset.tablesOk := by decide

/-- A schedule with the Host between the micro-steps, and a program that writes meanwhile. -/
theorem test_meets_BuildIsRightUnderAnyInterleaving :
    ∃ s s₁ : State, s.busy = false ∧ s.cfgW.toNat = Width.w16.bits ∧ s.cfgB.toNat ≤ 255 ∧
      s.cfgR.toNat ≤ s.rMax.toNat ∧ s.tablesOk ∧ Turn.reset ∉ s.schedule ∧ exec .build s = .next s₁ :=
  ⟨{ withKs1 with
      schedule := [.engine, .host, .engine, .host], program := [.write 0x010 8 0x1040, .write 0x018 8 4] },
    _, by decide, by decide, by decide, by decide, by decide, by decide, rfl⟩

/-- One with a context and an old table, one right after reset with other bytes beyond the key. -/
theorem test_meets_BuildTableDependsOnlyOnKeyAndConfig :
    ∃ s s' : State, s ≠ s' ∧ s.busy = false ∧ s'.busy = false ∧ s.cfgW.toNat = Width.w16.bits ∧ s.cfgB.toNat ≤ 255 ∧
      s.cfgR.toNat ≤ s.rMax.toNat ∧ s.cfgR.toNat ≤ s'.rMax.toNat ∧ s.tablesOk ∧ s'.tablesOk ∧ s'.cfgW = s.cfgW ∧
      s'.cfgB = s.cfgB ∧ s'.cfgR = s.cfgR ∧ keyBytes s'.key s.cfgB.toNat = keyBytes s.key s.cfgB.toNat :=
  ⟨{ withKs1 with cfgB := 1, key := [(0, 0x42)] },
    { State.reset with cfgW := 16, cfgR := 0, cfgB := 1, key := [(0, 0xFF42), (31, 1)] }, by decide⟩

theorem test_meets_EncryptMicroSteps :
    ((inBlock .encPre 2 0).Inv ∧ (inBlock .encPre 2 0).phase = .encPre ∧
      (inBlock .encPre 2 0).opw.toNat = Width.w16.bits) ∧
    ((inBlock .encRound 2 1).Inv ∧ (inBlock .encRound 2 1).phase = .encRound ∧
      (inBlock .encRound 2 1).opw.toNat = Width.w16.bits) :=
  ⟨⟨test_inv_inBlock.1, by decide⟩, test_inv_inBlock.2.1, by decide⟩

theorem test_meets_DecryptMicroSteps :
    ((inBlock .decRound 3 1).Inv ∧ (inBlock .decRound 3 1).phase = .decRound ∧
      (inBlock .decRound 3 1).opw.toNat = Width.w16.bits) ∧
    ((inBlock .decPost 3 0).Inv ∧ (inBlock .decPost 3 0).phase = .decPost ∧
      (inBlock .decPost 3 0).opw.toNat = Width.w16.bits) :=
  ⟨⟨test_inv_inBlock.2.2.1, by decide⟩, test_inv_inBlock.2.2.2, by decide⟩

/-- The table of KS4 and the largest words of width 16. -/
theorem test_meets_DecryptInvertsEncrypt :
    (∀ i, i < 2 * 1 + 2 → (withKs4.sTab.read i).toNat < 2 ^ Width.w16.bits) ∧
    (0xFFFF : Word).toNat < 2 ^ Width.w16.bits := by decide

/-- The hypotheses of the statements about a whole ENCRYPT, a whole DECRYPT, and both; with no rounds and with one. -/
theorem test_meets_block_statements :
    (withKs1.Inv ∧ withKs1.busy = false ∧ withKs1.valid = true ∧ withKs1.ctxW.toNat = Width.w16.bits) ∧
    (withKs4.Inv ∧ withKs4.busy = false ∧ withKs4.valid = true ∧ withKs4.ctxW.toNat = Width.w16.bits) :=
  ⟨⟨test_inv_withKs1, by decide⟩, test_inv_withKs4, by decide⟩

theorem test_meets_BlockResultUnderAnyInterleaving :
    ∃ s s₁ : State, s.Inv ∧ s.busy = false ∧ s.valid = true ∧ s.ctxW.toNat = Width.w16.bits ∧
      Turn.reset ∉ s.schedule ∧ exec .decrypt s = .next s₁ :=
  ⟨{ withKs4 with schedule := [.host, .engine, .host], program := [.write 0x030 8 1] },
    _, by constructor <;> decide, by decide, by decide, by decide, by decide, rfl⟩

theorem test_meets_EveryStepKeepsTheInvariant :
    ∃ t, (inKsMix 5).Inv ∧ step (inKsMix 5) = .next t := ⟨_, test_inv_inKsMix.2, rfl⟩

theorem test_meets_ResetMeetsTheInvariants : 32 ≤ (32 : BitVec 16).toNat ∧ 32 ≤ (65535 : BitVec 16).toNat := by decide

theorem test_meets_NoRunEverStops : (inKsMix 0).Inv := test_inv_inKsMix.1

theorem test_meets_HeldContextIsAKeySchedule :
    (∃ t, withKs1.Inv ∧ withKs1.KeyInv ∧ step withKs1 = .next t) ∧
    (∃ t, (inKsInit 0 []).Inv ∧ (inKsInit 0 []).KeyInv ∧ step (inKsInit 0 []) = .next t) ∧
    ∃ t, (inKsMix 0).Inv ∧ (inKsMix 0).KeyInv ∧ step (inKsMix 0) = .next t :=
  ⟨⟨_, test_inv_withKs1, test_keyInv_idle, rfl⟩, ⟨_, test_inv_inKsInit.1, test_keyInv_ksInit, rfl⟩,
    ⟨_, test_inv_inKsMix.1, test_keyInv_ksMix, rfl⟩⟩

theorem test_meets_ContextIsReadOnly :
    (∃ t, withKs1.Inv ∧ withKs1.valid = true ∧ step withKs1 = .next t) ∧
    ∃ t, (inBlock .encRound 2 1).Inv ∧ (inBlock .encRound 2 1).valid = true ∧ step (inBlock .encRound 2 1) = .next t :=
  ⟨⟨_, test_inv_withKs1, by decide, rfl⟩, ⟨_, test_inv_inBlock.2.1, by decide, rfl⟩⟩

/-- A micro-step that completes (the last round), one that does not (ENC_PRE with a round to come), and a step. -/
theorem test_meets_OutputsChangeOnlyAtCompletion :
    (∃ t, microStep (inBlock .encRound 2 1) = .next t ∧ t.phase = .idle) ∧
    (∃ t, microStep (inBlock .encPre 2 0) = .next t ∧ t.phase ≠ .idle) ∧ ∃ t, step (inBlock .decPost 3 0) = .next t :=
  ⟨⟨_, rfl, by decide⟩, ⟨_, rfl, by decide⟩, ⟨_, rfl⟩⟩

theorem test_meets_HostAccessesLeaveTheRunningCommand :
    ∃ t, ({ inKsMix 0 with program := [.write 0x018 8 4] } : State).busy = true ∧
      hostStep { inKsMix 0 with program := [.write 0x018 8 4] } = .next t := ⟨_, by decide, rfl⟩

/-- One micro-step of each phase. -/
theorem test_meets_MicroStepFrame :
    (∃ t, microStep withKs1 = .next t) ∧
    (∃ t, (inKsInit 0 []).sTab.wf = true ∧ microStep (inKsInit 0 []) = .next t ∧ t.phase = .ksInit) ∧
    (∃ t, (inKsMix 0).sTab.wf = true ∧ (inKsMix 0).lArr.wf = true ∧ microStep (inKsMix 0) = .next t ∧
      t.phase = .ksMix) ∧
    (∃ t, microStep (inBlock .encPre 2 0) = .next t) ∧ (∃ t, microStep (inBlock .encRound 2 1) = .next t) ∧
    (∃ t, microStep (inBlock .decRound 3 1) = .next t) ∧ ∃ t, microStep (inBlock .decPost 3 0) = .next t :=
  ⟨⟨_, rfl⟩, ⟨_, by decide, rfl, by decide⟩, ⟨_, by decide, by decide, rfl, by decide⟩, ⟨_, rfl⟩, ⟨_, rfl⟩, ⟨_, rfl⟩,
    ⟨_, rfl⟩⟩

/-- A BUILD, an ENCRYPT and a DECRYPT that start, a CLEAR, a command that fails, and one that is dropped. -/
theorem test_meets_EveryCommandEndsAfterItsStepCount :
    (∃ t, State.reset.busy = false ∧ State.reset.cfgW.toNat = Width.w32.bits ∧ State.reset.cfgB.toNat ≤ 255 ∧
      State.reset.cfgR.toNat ≤ State.reset.rMax.toNat ∧ exec .build State.reset = .next t) ∧
    (∃ t u v, withKs4.busy = false ∧ withKs4.valid = true ∧ exec .encrypt withKs4 = .next t ∧
      exec .decrypt withKs4 = .next u ∧ exec .clear withKs4 = .next v) ∧
    (∃ t, State.reset.busy = false ∧ exec .encrypt State.reset = .next t ∧ t.err ≠ .noError) ∧
    ∃ t, (inKsMix 0).busy = true ∧ exec .clear (inKsMix 0) = .next t :=
  ⟨⟨_, by decide, by decide, by decide, by decide, rfl⟩, ⟨_, _, _, by decide, by decide, rfl, rfl, rfl⟩,
    ⟨_, by decide, rfl, by decide⟩, ⟨_, by decide, rfl⟩⟩

theorem test_meets_PollEnds :
    ({ inKsMix 0 with program := [.poll, .read 0x028 8] } : State).Inv ∧
    ({ inKsMix 0 with program := [.poll, .read 0x028 8] } : State).schedule = [] := by
  constructor
  · constructor <;> decide
  · rfl

/-- Two states that agree and are not equal, in a block command and after reset. -/
theorem test_meets_UnspecifiedStateIsNeverRead :
    (∃ s t : State, s ≠ t ∧ s.Inv ∧ t.Inv ∧ s.Agree t) ∧
    ∃ s t : State, s ≠ t ∧ s.phase = .idle ∧ s.valid = false ∧ s.specifiedPart = t.specifiedPart :=
  ⟨⟨_, _, by decide, test_inv_inBlock.2.1, test_agree_busy.2, test_agree_busy.1⟩,
    ⟨State.reset, { State.reset with wa := 5, k := 7, sTab := [(0, 1)] }, by decide⟩⟩

theorem test_meets_ContextIsHiddenDuringBuild :
    ((inKsInit 0 []).Inv ∧ (inKsInit 0 []).phase = .ksInit) ∧ ((inKsMix 0).Inv ∧ (inKsMix 0).phase = .ksMix) ∧
    ∃ t, (withKs1.writeCfg 0x10010).busy = false ∧ exec .build (withKs1.writeCfg 0x10010) = .next t ∧
      t.phase = .idle :=
  ⟨⟨test_inv_inKsInit.1, rfl⟩, ⟨test_inv_inKsMix.1, rfl⟩, ⟨_, by decide, rfl, by decide⟩⟩

end Sys2Proof.Tests
end

section
/-! PROOFS. The register map as the bus sees it (10_state.md R21), and the identification registers (R22, R23). -/

namespace Sys2Proof.Machine

/-- No two registers of the map share an offset, so each is the one found at its own (10_state.md R21). -/
@[simp] theorem Reg.ofOffset_offset_self (r : Reg) : Reg.ofOffset (BitVec.ofNat 12 r.offset) = some r := by
  cases r with
  | key q => revert q; decide
  | id | cap | cfg | cmd | status | ctx | aIn | bIn | aOut | bOut | sIndex | sData => rfl

/-- Every register lies at a multiple of 8 in the window, so the 8-byte access of it is supported (20_memory.md R62, R63). -/
@[simp] theorem Reg.supported_offset (r : Reg) : supported (BitVec.ofNat 12 r.offset) 8 = true := by
  cases r with
  | key q => revert q; decide
  | id | cap | cfg | cmd | status | ctx | aIn | bIn | aOut | bOut | sIndex | sData => rfl

theorem busReadResult_offset (r : Reg) (s : State) :
    busReadResult (BitVec.ofNat 12 r.offset) 8 s = (readReg r s, .okay) := by simp [busReadResult]

theorem busWrite_offset (r : Reg) (d : Word) (s : State) :
    busWrite (BitVec.ofNat 12 r.offset) 8 d s = mapNext (State.respond (.write .okay)) (writeReg r d s) := by
  simp [busWrite]

/-- CAP is R_MAX above a constant low half (10_state.md R21). -/
theorem State.capWord_eq (s : State) : s.capWord = (0 : BitVec 16) ++ (s.rMax ++ (0xFF07 : BitVec 32)) := by
  simp [State.capWord, Config.keyMax]

/-- A field of CAP's low half is the same in every state. -/
theorem State.capWord_extractLsb'_low (s : State) {start len : Nat} (h : start + len ≤ 32) :
    s.capWord.extractLsb' start len = (0xFF07 : BitVec 32).extractLsb' start len := by
  rw [s.capWord_eq]
  calc ((0 : BitVec 16) ++ (s.rMax ++ (0xFF07 : BitVec 32))).extractLsb' start len
    _ = (s.rMax ++ (0xFF07 : BitVec 32)).extractLsb' start len := BitVec.extractLsb'_append_eq_of_add_le (by omega)
    _ = (0xFF07 : BitVec 32).extractLsb' start len := BitVec.extractLsb'_append_eq_of_add_le h

theorem State.capWord_extractLsb'_rMax (s : State) : s.capWord.extractLsb' 32 16 = s.rMax := by
  rw [s.capWord_eq]
  calc ((0 : BitVec 16) ++ (s.rMax ++ (0xFF07 : BitVec 32))).extractLsb' 32 16
    _ = (s.rMax ++ (0xFF07 : BitVec 32)).extractLsb' 32 16 := BitVec.extractLsb'_append_eq_of_add_le (by decide)
    _ = s.rMax := BitVec.extractLsb'_append_eq_left

theorem State.capWord_extractLsb'_high (s : State) : s.capWord.extractLsb' 48 16 = 0 := by
  rw [s.capWord_eq]
  exact BitVec.extractLsb'_append_eq_left

/-- Settles O23: the accesses at 0x000 and 0x008 are those of ID and CAP, whose writes store nothing, and CAP's fields are
those of its constant low half and of R_MAX. -/
theorem identificationRegisters : Obligations.IdentificationRegisters := by
  intro s
  have low {start len : Nat} (h : start + len ≤ 32) := s.capWord_extractLsb'_low h
  exact ⟨s.capWord, busReadResult_offset .id s, busReadResult_offset .cap s,
    (low (by decide)).trans (by decide), (low (by decide)).trans (by decide),
    (low (by decide)).trans (by decide), (low (by decide)).trans (by decide),
    s.capWord_extractLsb'_rMax, s.capWord_extractLsb'_high,
    fun d => ⟨busWrite_offset .id d s, busWrite_offset .cap d s⟩⟩

end Sys2Proof.Machine
end

section
/-! PROOFS. Accesses that reach no register: another size or an unaligned offset (20_memory.md R62, R63), a reserved
offset (R65), and the read-only registers (R66). -/

namespace Sys2Proof.Machine

theorem supported_eq_false_iff {off : BitVec 12} {size : Nat} :
    supported off size = false ↔ size ≠ 8 ∨ off.toNat % 8 ≠ 0 := by
  simp only [supported, decide_eq_false_iff_not, not_and_or, ne_eq]

theorem busReadResult_of_unsupported {off : BitVec 12} {size : Nat} (h : supported off size = false) (s : State) :
    busReadResult off size s = (0, .error) := by simp [busReadResult, h]

theorem busWrite_of_unsupported {off : BitVec 12} {size : Nat} (h : supported off size = false) (d : Word) (s : State) :
    busWrite off size d s = .next (s.respond (.write .error)) := by simp [busWrite, h]

/-- A read records what it returns and does nothing else (20_memory.md R61, R68). -/
theorem busRead_of_result {off : BitVec 12} {size : Nat} {s : State} {x : Word × Resp}
    (h : busReadResult off size s = x) : busRead off size s = s.respond (.read x.1 x.2) := by simp [busRead, h]

/-- Settles O18: an access that is not supported reads no register and writes none. -/
theorem unsupportedAccessGetsError : Obligations.UnsupportedAccessGetsError := by
  intro off size d s h
  have hs := supported_eq_false_iff.2 h
  have hr := busReadResult_of_unsupported hs s
  exact ⟨hr, busRead_of_result hr, busWrite_of_unsupported hs d s⟩

/-- The registers lie in two ranges of the window (10_state.md R21). -/
theorem Reg.offset_ranges (r : Reg) : r.offset ≤ 0x058 ∨ (0x100 ≤ r.offset ∧ r.offset ≤ 0x1F8) := by
  cases r with
  | key q =>
    have hq := q.isLt
    refine .inr ⟨?_, ?_⟩ <;> simp only [Reg.offset] <;> omega
  | id | cap | cfg | cmd | status | ctx | aIn | bIn | aOut | bOut | sIndex | sData => exact .inl (by decide)

/-- An offset outside both ranges of registers is reserved (20_memory.md R65). -/
theorem Reg.ofOffset_eq_none {off : BitVec 12}
    (h : (0x058 < off.toNat ∧ off.toNat < 0x100) ∨ 0x1F8 < off.toNat) : Reg.ofOffset off = none := by
  cases hr : Reg.ofOffset off with
  | none => rfl
  | some r =>
    have ho := ofOffset_offset hr
    have := r.offset_ranges
    omega

theorem supported_eight {off : BitVec 12} (h : off.toNat % 8 = 0) : supported off 8 = true := by simp [supported, h]

theorem busReadResult_of_reserved {off : BitVec 12} (ha : off.toNat % 8 = 0) (hr : Reg.ofOffset off = none)
    (s : State) : busReadResult off 8 s = (0, .okay) := by simp [busReadResult, supported_eight ha, hr]

theorem busWrite_of_reserved {off : BitVec 12} (ha : off.toNat % 8 = 0) (hr : Reg.ofOffset off = none) (d : Word)
    (s : State) : busWrite off 8 d s = .next (s.respond (.write .okay)) := by
  simp [busWrite, supported_eight ha, hr]

/-- Settles O19: no register lies at an offset of the two reserved ranges. -/
theorem reservedOffsetsReadZero : Obligations.ReservedOffsetsReadZero := by
  intro off d s ha hoff
  have hr : Reg.ofOffset off = none := Reg.ofOffset_eq_none (by omega)
  exact ⟨busRead_of_result (busReadResult_of_reserved ha hr s), busWrite_of_reserved ha hr d s⟩

/-- Settles O20: each of the seven offsets is that of a register whose write stores nothing; CMD reads 0. -/
theorem readOnlyRegistersIgnoreWrites : Obligations.ReadOnlyRegistersIgnoreWrites := by
  refine ⟨fun off d s hoff => ?_, busReadResult_offset .cmd⟩
  simp only [List.mem_cons, List.not_mem_nil, or_false] at hoff
  rcases hoff with rfl | rfl | rfl | rfl | rfl | rfl | rfl
  · exact busWrite_offset .id d s
  · exact busWrite_offset .cap d s
  · exact busWrite_offset .status d s
  · exact busWrite_offset .ctx d s
  · exact busWrite_offset .aOut d s
  · exact busWrite_offset .bOut d s
  · exact busWrite_offset .sData d s

end Sys2Proof.Machine
end

section
/-! PROOFS. Reserved fields (20_memory.md R67): where the zeros of the CFG, STATUS, CTX and S_INDEX words lie, and what is
left of a word written to CFG or S_INDEX. -/

namespace Sys2Proof.Machine

/-- A field that lies between a part above it and a part below it, read from the whole word. -/
theorem extractLsb'_append_append {h m l : Nat} (x : BitVec h) (y : BitVec m) (z : BitVec l) :
    (x ++ (y ++ z)).extractLsb' l m = y :=
  (BitVec.extractLsb'_append_eq_of_add_le (by omega)).trans BitVec.extractLsb'_append_eq_left

theorem State.cfgWord_reserved (s : State) : s.cfgWord.extractLsb' 24 8 = 0 :=
  extractLsb'_append_append s.cfgR (0 : BitVec 8) (s.cfgB ++ s.cfgW)

theorem State.ctxWord_reserved (s : State) : s.ctxWord.extractLsb' 8 24 = 0 :=
  extractLsb'_append_append s.ctxR (0 : BitVec 24) s.ctxW

theorem State.statusWord_reserved_high (s : State) : s.statusWord.extractLsb' 20 44 = 0 :=
  BitVec.extractLsb'_append_eq_left

/-- LAST_OP and ERR lie above the field, the four flags below it. -/
theorem State.statusWord_reserved_low (s : State) : s.statusWord.extractLsb' 4 4 = 0 :=
  (BitVec.extractLsb'_append_eq_of_add_le (by decide)).trans <|
    (BitVec.extractLsb'_append_eq_of_add_le (by decide)).trans <|
      extractLsb'_append_append s.err.code (0 : BitVec 4) _

theorem setWidth_reserved (v : BitVec 32) : (v.setWidth 64).extractLsb' 32 32 = 0 := by
  rw [BitVec.setWidth_eq_append (by decide)]
  exact BitVec.extractLsb'_append_eq_left

/-- CFG reads back what was written to it, less bits [31:24] (10_state.md R24). -/
theorem State.cfgWord_writeCfg (d : Word) (s : State) : (s.writeCfg d).cfgWord = d &&& 0xFFFFFFFF00FFFFFF := by
  have hd : d.extractLsb' 32 32 ++ (d.extractLsb' 24 8 ++ (d.extractLsb' 8 16 ++ d.extractLsb' 0 8)) = d := by
    rw [BitVec.extractLsb'_append_extractLsb'_eq_extractLsb' (by decide),
      BitVec.extractLsb'_append_extractLsb'_eq_extractLsb' (by decide)]
    exact BitVec.extractLsb'_append_extractLsb' (w := 32) (len := 32)
  calc (s.writeCfg d).cfgWord
    _ = (d.extractLsb' 32 32 ++ (d.extractLsb' 24 8 ++ (d.extractLsb' 8 16 ++ d.extractLsb' 0 8))) &&&
        (BitVec.allOnes 32 ++ ((0 : BitVec 8) ++ (BitVec.allOnes 16 ++ BitVec.allOnes 8))) := by
      simp only [State.cfgWord, State.writeCfg_cfgW, State.writeCfg_cfgB, State.writeCfg_cfgR, BitVec.and_append,
        BitVec.and_allOnes, BitVec.ofNat_eq_ofNat, BitVec.and_zero]
    _ = d &&& 0xFFFFFFFF00FFFFFF := by
      rw [hd]
      rfl

/-- S_INDEX keeps the low half of what is written to it (10_state.md R32). -/
theorem setWidth_extractLsb'_low (d : Word) : (d.extractLsb' 0 32).setWidth 64 = d &&& 0x00000000FFFFFFFF := by
  apply BitVec.eq_of_toNat_eq
  have e : (0x00000000FFFFFFFF : Word).toNat = 2 ^ 32 - 1 := rfl
  simp only [BitVec.toNat_and, BitVec.toNat_setWidth, BitVec.extractLsb'_toNat, e, Nat.and_two_pow_sub_one_eq_mod,
    Nat.shiftRight_zero]
  omega

/-- Settles O24: each reserved field is a part of its register's word that holds zeros. -/
theorem reservedFieldsReadZero : Obligations.ReservedFieldsReadZero := by
  refine ⟨fun s => ?_, fun d s => ?_, fun cw h => ?_⟩
  · exact ⟨show Config.idWord.extractLsb' 24 8 = 0 by decide, show Config.idWord.extractLsb' 40 24 = 0 by decide,
      (s.capWord_extractLsb'_low (by decide)).trans (by decide),
      (s.capWord_extractLsb'_low (by decide)).trans (by decide), s.capWord_extractLsb'_high,
      s.cfgWord_reserved, setWidth_reserved s.sIndex, s.statusWord_reserved_low, s.statusWord_reserved_high,
      s.ctxWord_reserved⟩
  · exact ⟨_, _, busWrite_offset .cfg d s, busWrite_offset .sIndex d s, s.cfgWord_writeCfg d,
      setWidth_extractLsb'_low d⟩
  · exact if_neg h

end Sys2Proof.Machine
end

section
/-! PROOFS. Key words (20_memory.md R71, 41_key_schedule.md R132): their number, and the bytes they are made of. -/

namespace Sys2Proof.Machine

/-- Byte m of a little-endian number is the m-th of the bytes it is made of, 0 past the last one (20_memory.md R71). -/
theorem packLE_byte (bs : List Byte) (m : Nat) : packLE bs / 256 ^ m % 256 = (bs.getD m 0).toNat := by
  induction bs generalizing m with
  | nil => simp [packLE]
  | cons b bs ih =>
    have hb := b.isLt
    cases m with
    | zero =>
      simp only [packLE, pow_zero, Nat.div_one, List.getD_cons_zero]
      omega
    | succ m =>
      have htail : (b.toNat + 256 * packLE bs) / 256 = packLE bs := by omega
      rw [List.getD_cons_succ, ← ih m, packLE, Nat.pow_succ', ← Nat.div_div_eq_div_mul, htail]

/-- A key word as a number: its bytes fit in a storage element, so none is lost. -/
theorem keyWords_getD_toNat {w : Width} {key : List Byte} {q : Nat} (h : q < wordCount w key.length) :
    ((keyWords w key).getD q 0).toNat = packLE ((key.drop (q * w.bytes)).take w.bytes) := by
  rw [keyWords_getD h, BitVec.toNat_ofNat]
  exact Nat.mod_eq_of_lt (Nat.lt_of_lt_of_le (packLE_take_lt w _) w.two_pow_le)

theorem keyWords_getD_byte {w : Width} {key : List Byte} {q m : Nat} (h : q < wordCount w key.length)
    (hm : m < w.bytes) : ((keyWords w key).getD q 0).extractLsb' (8 * m) 8 = key.getD (q * w.bytes + m) 0 := by
  apply BitVec.eq_of_toNat_eq
  calc (((keyWords w key).getD q 0).extractLsb' (8 * m) 8).toNat
    _ = packLE ((key.drop (q * w.bytes)).take w.bytes) / 256 ^ m % 256 := by
      rw [BitVec.extractLsb'_toNat, keyWords_getD_toNat h, Nat.shiftRight_eq_div_pow, Nat.pow_mul]
    _ = (((key.drop (q * w.bytes)).take w.bytes).getD m 0).toNat := packLE_byte _ m
    _ = (key.getD (q * w.bytes + m) 0).toNat := by
      simp [List.getD_eq_getElem?_getD, List.getElem?_take_of_lt hm]

/-- c is 1 for the empty key and `ceil(b / u)` for every other (00_scope.md R7). -/
theorem wordCount_eq_ite (w : Width) (b : Nat) :
    wordCount w b = if b = 0 then 1 else (b + w.bytes - 1) / w.bytes := by
  have hu := w.bytes_pos
  split
  case isTrue hb =>
    have : (b + w.bytes - 1) / w.bytes = 0 := Nat.div_eq_of_lt (by omega)
    simp [wordCount, this]
  case isFalse hb =>
    exact Nat.max_eq_right ((Nat.le_div_iff_mul_le hu).2 (by omega))

/-- Settles O34: a key word is the little-endian number of its u bytes of the key. -/
theorem keyWordsAreLittleEndian : Obligations.KeyWordsAreLittleEndian := by
  intro w key
  rw [keyWords_length]
  refine ⟨wordCount_eq_ite w key.length, fun q hq => ⟨?_, fun m hm => keyWords_getD_byte hq hm⟩⟩
  rw [keyWords_getD_toNat hq]
  exact packLE_take_lt w _

end Sys2Proof.Machine
end

section
/-! PROOFS. A held context is read-only (20_memory.md R77): what each kind of step leaves of VALID, S and CTX. -/

namespace Sys2Proof.Machine

/-- What R77 calls the context, with VALID, which says that one is held. -/
def State.context (s : State) : Bool × Memory × BitVec 8 × BitVec 32 := (s.valid, s.sTab, s.ctxW, s.ctxR)

/-- No register the Host writes is part of the context. -/
theorem RegisterEffect.context_eq {s t : State} (h : RegisterEffect s t) : t.context = s.context := by cases h <;> rfl

/-- A word that changes the context is a BUILD or a CLEAR, presented to an idle engine. -/
theorem CommandEffect.context_eq {d : Except DecodeReject Instr} {s t : State} (h : CommandEffect d s t) :
    t.context = s.context ∨ (s.busy = false ∧ (d = .ok .build ∨ d = .ok .clear)) := by
  cases h with
  | build hd hb => exact .inr ⟨hb, .inl hd⟩
  | clear hd hb => exact .inr ⟨hb, .inr hd⟩
  | nop | dropped | failed | encrypt | decrypt => exact .inl rfl

/-- With a context held, the command in progress is no BUILD (41_key_schedule.md R131). -/
theorem State.Inv.not_building {s : State} (h : s.Inv) (hv : s.valid = true) : s.phase ≠ .ksInit ∧ s.phase ≠ .ksMix := by
  constructor
  · intro hp
    obtain ⟨⟨_, _, _, _, _, hf, _⟩, _⟩ := h.ksInit hp
    exact absurd hv (by simp [hf])
  · intro hp
    obtain ⟨⟨_, _, _, _, _, hf, _⟩, _⟩ := h.ksMix hp
    exact absurd hv (by simp [hf])

/-- The micro-steps of ENCRYPT and DECRYPT, and the turn of an idle engine, leave the context. -/
theorem microStep_context_eq {s t : State} (hp : s.phase ≠ .ksInit ∧ s.phase ≠ .ksMix) (h : microStep s = .next t) :
    t.context = s.context := by
  rcases microStep_cases h with
    ⟨_, rfl⟩ | ⟨w, _, ⟨hk, _⟩ | ⟨hk, _⟩ | ⟨_, he⟩ | ⟨_, he⟩ | ⟨_, hd⟩ | ⟨_, hd⟩⟩
  · rfl
  · exact absurd hk hp.1
  · exact absurd hk hp.2
  · cases he
    split <;> rfl
  · obtain ⟨_, _, rfl, rfl⟩ := encRoundStep_next he
    split <;> rfl
  · obtain ⟨_, _, rfl, rfl⟩ := decRoundStep_next hd
    split <;> rfl
  · cases hd
    rfl

/-- A step from a state with a context keeps the context, or is a reset, or presents a BUILD or a CLEAR. -/
theorem step_context_eq {s t : State} (hi : s.Inv) (hv : s.valid = true) (h : step s = .next t) :
    t.context = s.context ∨ s.turn = .reset ∨
      ∃ cw, s.presents cw ∧ (decode cw = .ok .build ∨ decode cw = .ok .clear) := by
  rcases step_cases h with
    ⟨hr, _⟩ | ⟨_, hm⟩ | ⟨_, _, rfl⟩ | ⟨_, p, r, u, rfl, he⟩ | ⟨ht, cw, rest, u, hp, rfl, he⟩
  · exact .inr (.inl hr)
  · exact .inl (microStep_context_eq (s := { s with schedule := s.schedule.tail }) (hi.not_building hv) hm)
  · exact .inl rfl
  · exact .inl he.context_eq
  · rcases he.context_eq with hc | ⟨hb, hd⟩
    · exact .inl hc
    · exact .inr (.inr ⟨cw, ⟨ht, hb, rest, hp⟩, hd⟩)

/-- Settles O52: the cases of `step_context_eq`, with the parts of the context named. -/
theorem contextIsReadOnly : Obligations.ContextIsReadOnly := by
  intro s t hi hv h
  refine (step_context_eq hi hv h).imp_left fun hc => ?_
  simp only [State.context, Prod.mk.injEq] at hc
  obtain ⟨hvalid, hsTab, hctxW, hctxR⟩ := hc
  exact ⟨hvalid.trans hv, hsTab, hctxW, hctxR⟩

end Sys2Proof.Machine
end

section
/-! PROOFS. The two fields of a command word and what they decode to (30_encoding.md R90, R91, R98). -/

namespace Sys2Proof

@[simp] theorem resField_append (res : BitVec 60) (op : BitVec 4) : resField (res ++ op) = res :=
  BitVec.extractLsb'_append_eq_left

@[simp] theorem opField_append (res : BitVec 60) (op : BitVec 4) : opField (res ++ op) = op :=
  BitVec.extractLsb'_append_eq_right

/-- The two fields are the whole word (30_encoding.md R90). -/
theorem resField_append_opField (cw : BitVec 64) : resField cw ++ opField cw = cw :=
  BitVec.extractLsb'_append_extractLsb' (w := 60) (len := 4)

/-- A word is a command's word exactly when RES is 0 and OP is the command's. -/
theorem eq_encode_iff {cw : BitVec 64} {i : Instr} : cw = encode i ↔ resField cw = 0 ∧ opField cw = i.op := by
  constructor
  · rintro rfl
    exact ⟨resField_append 0 i.op, opField_append 0 i.op⟩
  · rintro ⟨hr, ho⟩
    rw [encode, ← hr, ← ho, resField_append_opField]

theorem decode_encode (i : Instr) : decode (encode i) = .ok i := by cases i <;> rfl

theorem decode_of_reserved {cw : BitVec 64} (hr : resField cw ≠ 0) : decode cw = .error .reservedBits := if_neg hr

theorem decode_of_reservedOpcode {cw : BitVec 64} (hr : resField cw = 0) (ho : 5 ≤ (opField cw).toNat) :
    decode cw = .error .reservedOpcode := by
  unfold decode
  rw [if_pos hr]
  split
  case h_6 => rfl
  all_goals omega

/-- Settles O1: each word 0 to 4 is its command's, and every other OP is reserved. -/
theorem opcodeMapDecodes : Obligations.OpcodeMapDecodes := by
  refine ⟨decode_encode .nop, decode_encode .build, decode_encode .encrypt, decode_encode .decrypt,
    decode_encode .clear, fun op h => decode_of_reservedOpcode (resField_append 0 op) ?_⟩
  rwa [opField_append]

theorem Instr.exists_op_eq {op : BitVec 4} (h : op.toNat < 5) : ∃ i : Instr, op = i.op := by
  interval_cases ho : op.toNat
  · exact ⟨.nop, BitVec.eq_of_toNat_eq ho⟩
  · exact ⟨.build, BitVec.eq_of_toNat_eq ho⟩
  · exact ⟨.encrypt, BitVec.eq_of_toNat_eq ho⟩
  · exact ⟨.decrypt, BitVec.eq_of_toNat_eq ho⟩
  · exact ⟨.clear, BitVec.eq_of_toNat_eq ho⟩

/-- A word with RES = 0 and an OP below 5 is a command's (30_encoding.md R91). -/
theorem exists_eq_encode {cw : BitVec 64} (h : ¬ (resField cw ≠ 0 ∨ 5 ≤ (opField cw).toNat)) : ∃ i, cw = encode i := by
  obtain ⟨hr, ho⟩ := not_or.1 h
  obtain ⟨i, hi⟩ := Instr.exists_op_eq (not_le.1 ho)
  exact ⟨i, eq_encode_iff.2 ⟨not_not.1 hr, hi⟩⟩

/-- The decoder refuses a word exactly when RES is not 0 or OP is reserved (30_encoding.md R98). -/
theorem decode_eq_error_iff {cw : BitVec 64} :
    (∃ e, decode cw = .error e) ↔ resField cw ≠ 0 ∨ 5 ≤ (opField cw).toNat := by
  constructor
  · rintro ⟨e, he⟩
    by_contra h
    obtain ⟨i, rfl⟩ := exists_eq_encode h
    simp [decode_encode] at he
  · intro h
    by_cases hr : resField cw = 0
    · exact ⟨_, decode_of_reservedOpcode hr (h.resolve_left (absurd hr))⟩
    · exact ⟨_, decode_of_reserved hr⟩

theorem decode_eq_ok_iff {cw : BitVec 64} {i : Instr} : decode cw = .ok i ↔ cw = encode i := by
  constructor
  · intro hi
    have legal : ¬ (resField cw ≠ 0 ∨ 5 ≤ (opField cw).toNat) := mt decode_eq_error_iff.2 (by simp [hi])
    obtain ⟨j, rfl⟩ := exists_eq_encode legal
    rw [decode_encode, Except.ok.injEq] at hi
    rw [hi]
  · rintro rfl
    exact decode_encode i

end Sys2Proof
end

section
/-! PROOFS. The acceptance of a word, arm by arm (30_encoding.md R92). -/

namespace Sys2Proof.Machine

theorem acceptWord_encode (i : Instr) (s : State) : acceptWord (encode i) s = exec i s := by
  simp [acceptWord, decode_encode]

/-- While BUSY, any word but NOP's is dropped (43_control.md R173). -/
theorem acceptWord_of_busy {cw : Word} {s : State} (h0 : cw ≠ 0) (hb : s.busy = true) :
    acceptWord cw s = .next s.dropCommand := by
  obtain ⟨t, ht, he⟩ := acceptWord_effect cw s
  cases he with
  | nop hd => exact absurd (decode_eq_ok_iff.1 hd) h0
  | dropped => exact ht
  | failed _ _ hi | build _ hi | encrypt _ hi | decrypt _ hi | clear _ hi => simp [hb] at hi

/-- An idle engine records a word that names no command (43_control.md R172). -/
theorem acceptWord_of_illegal {cw : Word} {s : State} (hb : s.busy = false)
    (h : resField cw ≠ 0 ∨ 5 ≤ (opField cw).toNat) :
    acceptWord cw s = .next (s.recordError .illegalCommand (opField cw)) := by
  obtain ⟨e, he⟩ := decode_eq_error_iff.2 h
  simp only [acceptWord, he, illegalCommand, whenIdle_of_idle hb]

/-- Settles O4: 0 is NOP's word; a busy engine drops every other; an idle one records a word with an illegal field, and
runs the command of one without. -/
theorem acceptanceFollowsTheDecoderArms : Obligations.AcceptanceFollowsTheDecoderArms := by
  intro cw s
  by_cases h0 : cw = 0
  · rw [if_pos h0, h0]
    exact acceptWord_encode .nop s
  rw [if_neg h0]
  by_cases hb : s.busy = true
  · rw [if_pos hb]
    exact acceptWord_of_busy h0 hb
  rw [if_neg hb]
  have idle : s.busy = false := Bool.eq_false_of_not_eq_true hb
  by_cases hx : cw.extractLsb' 4 60 ≠ 0 ∨ 5 ≤ (cw.extractLsb' 0 4).toNat
  · rw [if_pos hx]
    exact acceptWord_of_illegal idle hx
  rw [if_neg hx]
  obtain ⟨i, rfl⟩ := exists_eq_encode hx
  rw [acceptWord_encode]
  cases i with
  | nop => exact absurd rfl h0
  | build => exact congrArg Host.Outcome.next (whenIdle_of_idle idle acceptBuild)
  | encrypt => exact congrArg Host.Outcome.next (whenIdle_of_idle idle acceptEncrypt)
  | decrypt => exact congrArg Host.Outcome.next (whenIdle_of_idle idle acceptDecrypt)
  | clear => exact congrArg Host.Outcome.next (whenIdle_of_idle idle acceptClear)

end Sys2Proof.Machine
end

section
/-! PROOFS. The datapath's primitives (40_datapath.md R110 to R116): sums and differences modulo `2 ^ w`, rotations bit by
bit, and the inverse laws. -/

namespace Sys2Proof.Machine

/-! Sums and differences. -/

/-- Subtraction is of the integers, modulo `2 ^ w` (40_datapath.md R112). -/
theorem subW_toInt (w : Width) (x : Word) {y : Word} (hy : y.toNat < 2 ^ w.bits) :
    ((subW w x y).toNat : Int) = ((x.toNat : Int) - (y.toNat : Int)) % ((2 ^ w.bits : Nat) : Int) := by
  have borrow : y.toNat ≤ x.toNat + 2 ^ w.bits := by omega
  rw [subW_toNat, Int.natCast_mod, Int.natCast_sub borrow, Int.natCast_add, add_sub_right_comm, Int.add_emod_right]

/-- A three-operand sum is reduced once (40_datapath.md R111). -/
theorem addW_addW_toNat (w : Width) (x y z : Word) :
    (addW w (addW w x y) z).toNat = (x.toNat + y.toNat + z.toNat) % 2 ^ w.bits := by
  rw [addW_toNat, addW_toNat, Nat.mod_add_mod]

theorem subW_addW_cancel (w : Width) {x y : Word} (hx : x.toNat < 2 ^ w.bits) (hy : y.toNat < 2 ^ w.bits) :
    subW w (addW w x y) y = x := by
  refine BitVec.eq_of_toNat_eq (Int.ofNat_inj.1 ?_)
  calc ((subW w (addW w x y) y).toNat : Int)
      = ((x.toNat + y.toNat : Nat) % (2 ^ w.bits : Nat) - y.toNat : Int) % (2 ^ w.bits : Nat) := by
        rw [subW_toInt w _ hy, addW_toNat, Int.natCast_mod]
    _ = (x.toNat : Int) % (2 ^ w.bits : Nat) := by
        rw [Int.emod_sub_emod, Int.natCast_add, add_sub_cancel_right]
    _ = x.toNat := by rw [← Int.natCast_mod, Nat.mod_eq_of_lt hx]

/-- Settles O31: the sums and the difference as numbers, and the bound of each primitive. -/
theorem arithmeticIsModuloTwoToTheWidth : Obligations.ArithmeticIsModuloTwoToTheWidth := by
  intro w x y z n hx hy _
  exact ⟨addW_toNat w x y, subW_toInt w x hy, addW_addW_toNat w x y z, addW_lt w x y, subW_lt w x y, xor_lt hx hy,
    rotlW_lt w hx n, rotrW_lt w hx n⟩

/-! Rotations. -/

/-- A word of width w has no bit at or above w (40_datapath.md R110). -/
theorem getLsbD_of_bits_le {w : Width} {x : Word} (hx : x.toNat < 2 ^ w.bits) {i : Nat} (hi : w.bits ≤ i) :
    x.getLsbD i = false :=
  Nat.testBit_eq_false_of_lt (hx.trans_le (Nat.pow_le_pow_right (by decide) hi))

/-- Two words of width w are equal when their low w bits are. -/
theorem eq_of_getLsbD_eq {w : Width} {x y : Word} (hx : x.toNat < 2 ^ w.bits) (hy : y.toNat < 2 ^ w.bits)
    (h : ∀ i, i < w.bits → x.getLsbD i = y.getLsbD i) : x = y := by
  refine BitVec.eq_of_getLsbD_eq fun i _ => ?_
  by_cases hi : i < w.bits
  · exact h i hi
  · rw [getLsbD_of_bits_le hx (not_lt.1 hi), getLsbD_of_bits_le hy (not_lt.1 hi)]

/-- The two shifted halves of a rotation do not overlap: bit j comes from n below, or from the top n bits. -/
theorem rotlW_getLsbD_eq_or {w : Width} {x : Word} (hx : x.toNat < 2 ^ w.bits) {n j : Nat} (h0 : 0 < n)
    (hn : n < w.bits) (hj : j < w.bits) :
    (rotlW w x n).getLsbD j = ((decide (n ≤ j) && x.getLsbD (j - n)) || x.getLsbD (w.bits - n + j)) := by
  have wrapped : x.toNat >>> (w.bits - n) < 2 ^ n := by
    rw [Nat.shiftRight_eq_div_pow, Nat.div_lt_iff_lt_mul (Nat.two_pow_pos _), ← Nat.pow_add, Nat.add_sub_cancel' hn.le]
    exact hx
  rw [BitVec.getLsbD, rotlW_toNat w x h0 hn, Nat.shiftLeft_add_eq_or_of_lt wrapped]
  simp [Nat.testBit_mod_two_pow, hj, BitVec.getLsbD]

/-- Rotation left moves bit i to bit `(i + n) mod w` (40_datapath.md R114). -/
theorem rotlW_getLsbD {w : Width} {x : Word} (hx : x.toNat < 2 ^ w.bits) (n : Nat) {i : Nat} (hi : i < w.bits) :
    (rotlW w x n).getLsbD ((i + n) % w.bits) = x.getLsbD i := by
  rw [← rotlW_mod, ← Nat.add_mod_mod]
  have hn : n % w.bits < w.bits := Nat.mod_lt n w.bits_pos
  generalize n % w.bits = s at hn
  rcases Nat.eq_zero_or_pos s with rfl | h0
  · simp [rotlW, Nat.mod_eq_of_lt hi]
  rw [rotlW_getLsbD_eq_or hx h0 hn (Nat.mod_lt _ w.bits_pos)]
  by_cases hw : i + s < w.bits
  · have above : x.getLsbD (w.bits - s + (i + s)) = false := getLsbD_of_bits_le hx (by omega)
    simp [Nat.mod_eq_of_lt hw, above]
  · have wraps : (i + s) % w.bits = i + s - w.bits := by
      rw [Nat.mod_eq_sub_mod (not_lt.1 hw), Nat.mod_eq_of_lt (by omega)]
    have low : ¬ s ≤ i + s - w.bits := by omega
    have back : w.bits - s + (i + s - w.bits) = i := by omega
    simp [wraps, low, back]

/-- Rotation right is rotation left by the rest of a full turn (40_datapath.md R115). -/
theorem rotrW_eq_rotlW (w : Width) (x : Word) {m n : Nat} (h : (m + n) % w.bits = 0) : rotrW w x n = rotlW w x m := by
  rw [Nat.add_mod, ← Nat.dvd_iff_mod_eq_zero] at h
  rw [← rotrW_mod, ← rotlW_mod]
  have hm : m % w.bits < w.bits := Nat.mod_lt m w.bits_pos
  have hn : n % w.bits < w.bits := Nat.mod_lt n w.bits_pos
  generalize m % w.bits = p, n % w.bits = q at h hm hn
  rcases Nat.eq_zero_or_pos q with rfl | h0
  · have still : p = 0 := Nat.eq_zero_of_dvd_of_lt h hm
    simp [rotrW, rotlW, still]
  · have turn : p + q = w.bits := Nat.eq_of_dvd_of_lt_two_mul (by omega) h (by omega)
    apply BitVec.eq_of_toNat_eq
    rw [rotrW_toNat w x h0 hn, rotlW_toNat w x (by omega) hm, Nat.add_comm, Nat.sub_eq_of_eq_add turn.symm,
      Nat.sub_eq_of_eq_add' turn.symm]

/-- Each amount has one that completes it to full turns. -/
theorem exists_add_mod_bits_eq_zero (w : Width) (n : Nat) : ∃ m, (m + n) % w.bits = 0 := by
  refine ⟨w.bits - n % w.bits, ?_⟩
  rw [← Nat.add_mod_mod, Nat.sub_add_cancel (Nat.mod_lt n w.bits_pos).le, Nat.mod_self]

/-- Rotation right moves bit `(i + n) mod w` to bit i (40_datapath.md R115). -/
theorem rotrW_getLsbD {w : Width} {x : Word} (hx : x.toNat < 2 ^ w.bits) (n : Nat) {i : Nat} (hi : i < w.bits) :
    (rotrW w x n).getLsbD i = x.getLsbD ((i + n) % w.bits) := by
  obtain ⟨m, hm⟩ := exists_add_mod_bits_eq_zero w n
  have back : ((i + n) % w.bits + m) % w.bits = i := by
    rw [Nat.mod_add_mod, Nat.add_assoc, Nat.add_comm n, ← Nat.add_mod_mod, hm, Nat.add_zero, Nat.mod_eq_of_lt hi]
  rw [rotrW_eq_rotlW w x hm, ← rotlW_getLsbD hx m (Nat.mod_lt (i + n) w.bits_pos), back]

/-- Settles O32: where each bit goes, and that a rotated word has width w. -/
theorem rotationMovesEveryBit : Obligations.RotationMovesEveryBit := by
  intro w x n i hx
  exact ⟨fun hi => ⟨rotlW_getLsbD hx n hi, rotrW_getLsbD hx n hi⟩,
    fun hi => ⟨getLsbD_of_bits_le (rotlW_lt w hx n) hi, getLsbD_of_bits_le (rotrW_lt w hx n) hi⟩⟩

/-! The inverse laws (40_datapath.md R116). -/

theorem rotrW_rotlW (w : Width) {x : Word} (hx : x.toNat < 2 ^ w.bits) (n : Nat) : rotrW w (rotlW w x n) n = x := by
  have hl := rotlW_lt w hx n
  refine eq_of_getLsbD_eq (rotrW_lt w hl n) hx fun i hi => ?_
  rw [rotrW_getLsbD hl n hi, rotlW_getLsbD hx n hi]

theorem rotlW_rotrW (w : Width) {x : Word} (hx : x.toNat < 2 ^ w.bits) (n : Nat) : rotlW w (rotrW w x n) n = x := by
  obtain ⟨m, hm⟩ := exists_add_mod_bits_eq_zero w n
  rw [rotrW_eq_rotlW w x hm, ← rotrW_eq_rotlW w _ (Nat.add_comm m n ▸ hm)]
  exact rotrW_rotlW w hx m

/-- Settles O33: the four laws; exclusive or is its own inverse. -/
theorem datapathInverseLaws : Obligations.DatapathInverseLaws := by
  intro w x y n hx hy
  exact ⟨rotrW_rotlW w hx n, rotlW_rotrW w hx n, subW_addW_cancel w hx hy,
    by rw [BitVec.xor_assoc, BitVec.xor_self, BitVec.xor_zero]⟩

end Sys2Proof.Machine
end

section
/-! PROOFS. The acceptance of BUILD (41_key_schedule.md R131): the three checks and the key words in L. -/

namespace Sys2Proof.Machine

/-- Reading a table whose first entries are a list of words. -/
theorem Memory.read_writeFrom_zero {m : Memory} (h : m.wf = true) {vs : List Word} {i : Nat} (hi : i < vs.length) :
    (m.writeFrom 0 vs).read i = vs.getD i 0 := by
  simp [Memory.read_writeFrom h, hi]

/-- A BUILD that passes the checks starts (41_key_schedule.md R131). -/
theorem exec_build_of_legal {s : State} {w : Width} (hb : s.busy = false) (hl : s.buildLegal w) :
    exec .build s = .next (startBuild w s) := by
  obtain ⟨hw, hB, hR⟩ := hl
  simp only [exec, execBuild, whenIdle_of_idle hb, acceptBuild, hw, if_neg (Nat.not_lt.2 hB), if_neg (Nat.not_lt.2 hR)]

/-- The first check (60_exceptions.md R182). -/
theorem exec_build_of_width {s : State} (hb : s.busy = false) (hw : Width.ofField s.cfgW = none) :
    exec .build s = .next (s.recordError .unsupportedWordWidth 1) := by
  simp only [exec, execBuild, whenIdle_of_idle hb, acceptBuild, hw]

/-- The second check (60_exceptions.md R183). -/
theorem exec_build_of_keyTooLong {s : State} {w : Width} (hb : s.busy = false) (hw : Width.ofField s.cfgW = some w)
    (hB : Config.keyMax < s.cfgB.toNat) : exec .build s = .next (s.recordError .keyTooLong 1) := by
  simp only [exec, execBuild, whenIdle_of_idle hb, acceptBuild, hw, if_pos hB]

/-- The third check (60_exceptions.md R184). -/
theorem exec_build_of_rounds {s : State} {w : Width} (hb : s.busy = false) (hw : Width.ofField s.cfgW = some w)
    (hB : s.cfgB.toNat ≤ Config.keyMax) (hR : s.rMax.toNat < s.cfgR.toNat) :
    exec .build s = .next (s.recordError .roundsUnsupported 1) := by
  simp only [exec, execBuild, whenIdle_of_idle hb, acceptBuild, hw, if_neg (Nat.not_lt.2 hB), if_pos hR]

/-- An accepted BUILD leaves the key words in L (41_key_schedule.md R131, R132). -/
theorem startBuild_lArr_read (w : Width) {s : State} (h : s.lArr.wf = true) {j : Nat}
    (hj : j < wordCount w s.cfgB.toNat) :
    (startBuild w s).lArr.read j = (keyWords w (keyBytes s.key s.cfgB.toNat)).getD j 0 :=
  Memory.read_writeFrom_zero h (by simpa using hj)

/-- Settles O7: a legal CFG starts the BUILD, and each check that fails is recorded. -/
theorem buildAcceptance : Obligations.BuildAcceptance := by
  refine ⟨fun s w hb hw hB hR => ?_, fun s hb h16 h32 h64 => ?_, fun s w hb hw hB => ?_, fun s w hb hw hB hR => ?_⟩
  · exact ⟨startBuild w s, exec_build_of_legal hb ⟨Width.ofField_eq_some.2 hw, hB, hR⟩, rfl, fun i _ => rfl,
      fun hl j hj => startBuild_lArr_read w hl hj⟩
  · exact exec_build_of_width hb (Width.ofField_eq_none.2 ⟨h16, h32, h64⟩)
  · exact exec_build_of_keyTooLong hb (Width.ofField_eq_some.2 hw) hB
  · exact exec_build_of_rounds hb (Width.ofField_eq_some.2 hw) hB hR

end Sys2Proof.Machine
end

section
/-! PROOFS. Runs of micro-steps, and the sizes a BUILD latches (10_state.md R37, 41_key_schedule.md R137). -/

namespace Sys2Proof.Machine

/-- n micro-steps lead from s to t, and the engine is busy before each of them. -/
def RunsTo (n : Nat) (s t : State) : Prop :=
  microSteps n s = .next t ∧ ∀ m, m < n → ∃ u, microSteps m s = .next u ∧ u.phase ≠ .idle

theorem RunsTo.zero (s : State) : RunsTo 0 s s := ⟨rfl, fun _ h => absurd h (Nat.not_lt_zero _)⟩

theorem RunsTo.one {s t : State} (hp : s.phase ≠ .idle) (h : microStep s = .next t) : RunsTo 1 s t := by
  refine ⟨microSteps_succ h 0, fun m hm => ?_⟩
  obtain rfl : m = 0 := by omega
  exact ⟨s, rfl, hp⟩

theorem RunsTo.trans {m n : Nat} {s t u : State} (h : RunsTo m s t) (h' : RunsTo n t u) : RunsTo (m + n) s u := by
  obtain ⟨hm, before⟩ := h
  obtain ⟨hn, after⟩ := h'
  refine ⟨(microSteps_add hm n).trans hn, fun k hk => ?_⟩
  by_cases hkm : k < m
  · exact before k hkm
  · obtain ⟨d, rfl⟩ := Nat.exists_eq_add_of_le (Nat.le_of_not_lt hkm)
    rw [microSteps_add hm d]
    exact after d (by omega)

/-- A sequence of busy states, each the micro-step after the one before, is a run. -/
theorem RunsTo.of_sequence {f : Nat → State} {n : Nat}
    (h : ∀ i, i < n → (f i).phase ≠ .idle ∧ microStep (f i) = .next (f (i + 1))) : RunsTo n (f 0) (f n) := by
  induction n with
  | zero => exact .zero _
  | succ n ih =>
    obtain ⟨hp, hs⟩ := h n (Nat.lt_succ_self n)
    exact (ih fun i hi => h i (Nat.lt_succ_of_lt hi)).trans (.one hp hs)

/-- The latched counts of a BUILD: t entries of S and c of L, both within their tables (41_key_schedule.md R131). -/
structure State.Sized (s : State) : Prop where
  rounds : s.opr.toNat ≤ s.rMax.toNat
  opt_eq : s.opt.toNat = tableLength s.opr.toNat
  opc_pos : 1 ≤ s.opc.toNat
  opc_le : s.opc.toNat ≤ Config.lMax

theorem State.buildLatched.sized {s : State} (h : s.buildLatched) : s.Sized := by
  obtain ⟨_, hr, ht, hc, hc', _⟩ := h
  exact ⟨hr, ht, hc, hc'⟩

theorem State.Sized.opt_le_sMax {s : State} (h : s.Sized) : s.opt.toNat ≤ Config.sMax s.rMax := by
  have := h.rounds
  simp only [h.opt_eq, tableLength_eq, Config.sMax]
  omega

/-- The number of KS_MIX steps of a BUILD fits in the counter K, which therefore does not wrap (10_state.md R36). -/
theorem State.Sized.mixCount_lt {s : State} (h : s.Sized) : mixCount s.opt.toNat s.opc.toNat < 2 ^ 32 := by
  have hr := h.rounds
  have hc := h.opc_le
  have hm := s.rMax.isLt
  simp only [h.opt_eq, tableLength_eq, mixCount, Config.lMax] at hc ⊢
  omega

theorem State.Sized.opt_pos {s : State} (h : s.Sized) : 0 < s.opt.toNat := by
  rw [h.opt_eq]
  exact Nat.succ_pos _

theorem le_mixCount (t c : Nat) : t ≤ mixCount t c := by
  simp only [mixCount]
  omega

theorem toNat_add_one {k : BitVec 32} {n : Nat} (hk : k.toNat < n) (hn : n < 2 ^ 32) : (k + 1).toNat = k.toNat + 1 := by
  rw [BitVec.toNat_add]
  exact Nat.mod_eq_of_lt (by simp; omega)

end Sys2Proof.Machine
end

section
/-! PROOFS. KS_INIT (41_key_schedule.md R133): the micro-step, and the table that OPT of them leave. -/

namespace Sys2Proof.Machine

/-- The literals of 40_datapath.md R119 are the model's constants. -/
theorem magic_of_mem {w : Width} {p q : Nat}
    (h : (w, p, q) ∈ ([(.w16, 0xB7E1, 0x9E37), (.w32, 0xB7E15163, 0x9E3779B9),
      (.w64, 0xB7E151628AED2A6B, 0x9E3779B97F4A7C15)] : List (Width × Nat × Nat))) :
    w.magicP.toNat = p ∧ w.magicQ.toNat = q := by
  simp only [List.mem_cons, Prod.mk.injEq, List.not_mem_nil, or_false] at h
  rcases h with ⟨rfl, rfl, rfl⟩ | ⟨rfl, rfl, rfl⟩ | ⟨rfl, rfl, rfl⟩ <;> exact ⟨rfl, rfl⟩

theorem Width.magicP_lt (w : Width) : w.magicP.toNat < 2 ^ w.bits := by cases w <;> decide

/-- The initial table is an arithmetic progression (41_key_schedule.md R133). -/
theorem initEntry_toNat (w : Width) (i : Nat) :
    (initEntry w i).toNat = (w.magicP.toNat + i * w.magicQ.toNat) % 2 ^ w.bits := by
  induction i with
  | zero => simp [initEntry, Nat.mod_eq_of_lt (Width.magicP_lt w)]
  | succ i ih => rw [initEntry, addW_toNat, ih, Nat.mod_add_mod, Nat.add_assoc, Nat.succ_mul]

/-- The value the KS_INIT micro-step gives to entry K. -/
def ksInitValue (w : Width) (s : State) : Word :=
  if s.k = 0 then w.magicP else addW w (s.sTab.read (s.k.toNat - 1)) w.magicQ

/-- The state after a KS_INIT micro-step that is not the last one. -/
def ksInitNext (w : Width) (s : State) : State :=
  { s with sTab := s.sTab.write s.k.toNat (ksInitValue w s), k := s.k + 1 }

/-- A KS_INIT micro-step writes entry K alone, from the entry before it (41_key_schedule.md R133). -/
theorem ksInitNext_read (w : Width) {s : State} (hs : s.sTab.wf = true) (i : Nat) :
    (ksInitNext w s).sTab.read i =
      if i = s.k.toNat then (if i = 0 then w.magicP else addW w (s.sTab.read (i - 1)) w.magicQ)
      else s.sTab.read i := by
  have zero : s.k = 0 ↔ s.k.toNat = 0 := BitVec.toNat_inj.symm
  rw [ksInitNext, Memory.read_write hs, ksInitValue]
  split
  case isTrue hi => simp only [hi, zero]
  case isFalse => rfl

/-- The KS_INIT micro-step of a BUILD, which never stops (41_key_schedule.md R133). -/
theorem microStep_ksInit {s : State} {w : Width} (hp : s.phase = .ksInit) (hw : Width.ofField s.opw = some w)
    (hz : s.Sized) (hk : s.k.toNat < s.opt.toNat) :
    microStep s =
      .next (if s.k.toNat + 1 = s.opt.toNat then startMix (ksInitNext w s) else ksInitNext w s) := by
  have last : s.k + 1 = s.opt ↔ s.k.toNat + 1 = s.opt.toNat := by
    rw [← BitVec.toNat_inj, toNat_add_one hk s.opt.isLt]
  have step : microStep s = ksInitStep w s := by simp only [microStep, hp, atWidth_of hw]
  simp only [step, ksInitStep, if_pos (Nat.lt_of_lt_of_le hk hz.opt_le_sMax), last]
  rfl

/-- The state n micro-steps into KS_INIT. -/
def State.initialised (w : Width) (n : Nat) (s : State) : State :=
  { s with sTab := s.sTab.writeFrom 0 ((List.range n).map (initEntry w)), k := BitVec.ofNat 32 n }

theorem State.initialised_zero (w : Width) {s : State} (hk : s.k = 0) : s.initialised w 0 = s := by
  cases s
  cases hk
  rfl

/-- The first n entries are those of the initial table. -/
theorem State.initialised_read (w : Width) {s : State} (hs : s.sTab.wf = true) {n i : Nat} (hi : i < n) :
    (s.initialised w n).sTab.read i = initEntry w i := by
  refine (Memory.read_writeFrom_zero hs (by simpa using hi)).trans ?_
  simp [List.getD_eq_getElem?_getD, hi]

/-- A run of writes and one more at its end. -/
theorem Memory.writeFrom_concat (m : Memory) (a : Nat) (vs : List Word) (v : Word) :
    m.writeFrom a (vs ++ [v]) = (m.writeFrom a vs).write (a + vs.length) v := by
  induction vs generalizing m a with
  | nil => rfl
  | cons u vs ih => simp [Memory.writeFrom, ih, Nat.add_assoc, Nat.add_comm 1]

/-- KS_INIT step n writes entry n of the initial table. -/
theorem ksInitNext_initialised (w : Width) {s : State} (hs : s.sTab.wf = true) {n : Nat} (hn : n < 2 ^ 32) :
    ksInitNext w (s.initialised w n) = s.initialised w (n + 1) := by
  have hk : (s.initialised w n).k.toNat = n := Nat.mod_eq_of_lt hn
  have value : ksInitValue w (s.initialised w n) = initEntry w n := by
    cases n with
    | zero => rfl
    | succ n =>
      have h0 : (s.initialised w (n + 1)).k ≠ 0 := fun e => by simp [e] at hk
      rw [ksInitValue, if_neg h0, hk, Nat.add_sub_cancel, State.initialised_read w hs (Nat.lt_succ_self n), initEntry]
  have table : (s.initialised w n).sTab.write n (initEntry w n) = (s.initialised w (n + 1)).sTab := by
    simp [State.initialised, List.range_succ, Memory.writeFrom_concat]
  have count : (s.initialised w n).k + 1 = (s.initialised w (n + 1)).k := (BitVec.ofNat_add n 1).symm
  rw [ksInitNext, value, hk, table, count]
  rfl

section
variable {s : State} {w : Width} (hp : s.phase = .ksInit) (hw : Width.ofField s.opw = some w) (hz : s.Sized)
  (hs : s.sTab.wf = true)
include hp hw hz hs

theorem microStep_initialised {n : Nat} (hn : n < s.opt.toNat) :
    microStep (s.initialised w n) =
      .next (if n + 1 = s.opt.toNat then startMix (s.initialised w (n + 1)) else s.initialised w (n + 1)) := by
  have hn32 : n < 2 ^ 32 := Nat.lt_trans hn s.opt.isLt
  have hk : (s.initialised w n).k.toNat = n := Nat.mod_eq_of_lt hn32
  have sized : (s.initialised w n).Sized := ⟨hz.rounds, hz.opt_eq, hz.opc_pos, hz.opc_le⟩
  rw [microStep_ksInit (s := s.initialised w n) hp hw sized (hk.symm ▸ hn), ksInitNext_initialised w hs hn32, hk]
  rfl

/-- OPT micro-steps of KS_INIT fill the table and start the mixing (41_key_schedule.md R133). -/
theorem runsTo_startMix (hk : s.k = 0) : RunsTo s.opt.toNat s (startMix (s.initialised w s.opt.toNat)) := by
  obtain ⟨n, hn⟩ : ∃ n, s.opt.toNat = n + 1 := Nat.exists_eq_add_one.2 hz.opt_pos
  have busy : ∀ i, (s.initialised w i).phase ≠ .idle := fun i => by simp [State.initialised, hp]
  have filling : RunsTo n (s.initialised w 0) (s.initialised w n) := .of_sequence fun i hi =>
    ⟨busy i, by rw [microStep_initialised hp hw hz hs (by omega), if_neg (by omega)]⟩
  have last : microStep (s.initialised w n) = .next (startMix (s.initialised w (n + 1))) := by
    rw [microStep_initialised hp hw hz hs (by omega), if_pos hn.symm]
  rw [State.initialised_zero w hk] at filling
  rw [hn]
  exact filling.trans (.one (busy n) last)

end

/-- Settles O35: the micro-step, then the run of OPT micro-steps with the progression it leaves. -/
theorem ksInitMicroSteps : Obligations.KsInitMicroSteps := by
  intro s w p q hpq hi hp hbits
  obtain ⟨rfl, rfl⟩ := magic_of_mem hpq
  obtain ⟨hl, hk, _⟩ := hi.ksInit hp
  have hw : Width.ofField s.opw = some w := Width.ofField_eq_some.2 hbits
  have hz := hl.sized
  obtain ⟨hs, _⟩ := hi.tables
  constructor
  · simp only [BitVec.ofNat_toNat, BitVec.setWidth_eq]
    refine ⟨_, microStep_ksInit hp hw hz hk, ?_, fun i _ => ?_, fun j _ => ?_⟩
    · split <;> rfl
    · rw [← ksInitNext_read w hs i]
      split <;> rfl
    · split <;> rfl
  · intro hk0
    have hrun := (runsTo_startMix hp hw hz hs hk0).1
    refine ⟨_, hrun, rfl, rfl, rfl, rfl, rfl, rfl, fun i hi => ?_⟩
    rw [startMix_sTab, State.initialised_read w hs hi, initEntry_toNat]

end Sys2Proof.Machine
end

section
/-! PROOFS. KS_MIX (41_key_schedule.md R134, R136): the micro-step, and that it is one pass through the mixing loop. -/

namespace Sys2Proof.Machine

/-- The state after a KS_MIX micro-step that is not the last one. -/
def ksMixNext (w : Width) (s : State) : State :=
  let a := mixA w (s.sTab.read s.wi.toNat) s.wa s.wb
  let b := mixB w (s.lArr.read s.wj.toNat) a s.wb
  { s with
    wa := a, sTab := s.sTab.write s.wi.toNat a
    wb := b, lArr := s.lArr.write s.wj.toNat b
    wi := BitVec.ofNat 32 ((s.wi.toNat + 1) % s.opt.toNat)
    wj := BitVec.ofNat 32 ((s.wj.toNat + 1) % s.opc.toNat)
    k := s.k + 1 }

/-- The KS_MIX micro-step of a BUILD, which never stops (41_key_schedule.md R134, R136). -/
theorem microStep_ksMix {s : State} {w : Width} (hp : s.phase = .ksMix) (hw : Width.ofField s.opw = some w)
    (hz : s.Sized) (hk : s.k.toNat < mixCount s.opt.toNat s.opc.toNat) (hi : s.wi.toNat < s.opt.toNat)
    (hj : s.wj.toNat < s.opc.toNat) :
    microStep s =
      .next (if s.k.toNat + 1 = mixCount s.opt.toNat s.opc.toNat then finishBuild (ksMixNext w s)
        else ksMixNext w s) := by
  have step : microStep s = ksMixStep w s := by simp only [microStep, hp, atWidth_of hw]
  have inTables : s.wi.toNat < Config.sMax s.rMax ∧ s.wj.toNat < Config.lMax :=
    ⟨Nat.lt_of_lt_of_le hi hz.opt_le_sMax, Nat.lt_of_lt_of_le hj hz.opc_le⟩
  simp only [step, ksMixStep, if_pos inTables, toNat_add_one hk hz.mixCount_lt]
  rfl

/-- Settles O36: the micro-step writes one entry of S, and one of L unless it is the last, which zeroes L. -/
theorem ksMixMicroStep : Obligations.KsMixMicroStep := by
  intro s w a b hi hp hbits ha hb
  obtain ⟨hl, hk, hwi, hwj, _⟩ := hi.ksMix hp
  obtain ⟨hs, hL, _⟩ := hi.tables
  subst ha hb
  have step := microStep_ksMix hp (Width.ofField_eq_some.2 hbits) hl.sized hk hwi hwj
  by_cases last : s.k.toNat + 1 = mixCount s.opt.toNat s.opc.toNat
  · rw [if_pos last] at step
    refine ⟨_, step, fun i _ => Memory.read_write hs _ _ _, ?_⟩
    rw [mixCount] at last
    rw [if_pos last]
    exact ⟨rfl, fun j => rfl⟩
  · rw [if_neg last] at step
    refine ⟨_, step, fun i _ => Memory.read_write hs _ _ _, ?_⟩
    rw [mixCount] at last
    rw [if_neg last]
    exact ⟨rfl, fun j _ => Memory.read_write hL _ _ _⟩

/-- Both indices of the mixing loop lie in their tables. -/
def Mix.Indexed (m : Mix) : Prop := m.i < m.s.length ∧ m.j < m.l.length

theorem mixStep_indexed (w : Width) {m : Mix} (h : m.Indexed) : (mixStep w m).Indexed := by
  obtain ⟨hi, hj⟩ := h
  exact ⟨by simpa [mixStep] using Nat.mod_lt _ (Nat.zero_lt_of_lt hi),
    by simpa [mixStep] using Nat.mod_lt _ (Nat.zero_lt_of_lt hj)⟩

theorem mixSteps_indexed (w : Width) (n : Nat) {m : Mix} (h : m.Indexed) : (mixSteps w n m).Indexed := by
  induction n with
  | zero => exact h
  | succ n ih => exact mixSteps_succ w n m ▸ mixStep_indexed w ih

/-- The state whose working registers and tables are the variables of the mixing loop, after n passes. -/
def State.withMix (m : Mix) (n : Nat) (s : State) : State :=
  { s with
    sTab := s.sTab.writeFrom 0 m.s, lArr := s.lArr.writeFrom 0 m.l, wa := m.a, wb := m.b
    wi := BitVec.ofNat 32 m.i, wj := BitVec.ofNat 32 m.j, k := BitVec.ofNat 32 n }

/-- A write into a run of writes is the run with that value in it. -/
theorem Memory.write_writeFrom {m : Memory} (h : m.wf = true) {vs : List Word} {i : Nat} (hi : i < vs.length)
    (v : Word) : (m.writeFrom 0 vs).write i v = m.writeFrom 0 (vs.set i v) := by
  have hrun := Memory.wf_writeFrom h 0 vs
  refine Memory.ext_read (Memory.wf_write hrun i v) (Memory.wf_writeFrom h 0 _) fun b => ?_
  simp only [Memory.read_write hrun, Memory.read_writeFrom h, List.length_set, Nat.zero_add, Nat.sub_zero]
  by_cases hb : b = i
  · subst hb
    simp [hi, List.getD_eq_getElem?_getD]
  · simp [hb, Ne.symm hb, List.getD_eq_getElem?_getD]

section
variable {s : State} {w : Width} (hw : Width.ofField s.opw = some w) (hz : s.Sized)
  (hs : s.sTab.wf = true) (hL : s.lArr.wf = true)
include hs hL

theorem ksMixNext_withMix (w : Width) {m : Mix} (hm : m.Indexed) (hS : m.s.length = s.opt.toNat)
    (hC : m.l.length = s.opc.toNat) (n : Nat) :
    ksMixNext w (s.withMix m n) = s.withMix (mixStep w m) (n + 1) := by
  obtain ⟨hi, hj⟩ := hm
  have hwi : (s.withMix m n).wi.toNat = m.i := Nat.mod_eq_of_lt (Nat.lt_trans (hS ▸ hi) s.opt.isLt)
  have hwj : (s.withMix m n).wj.toNat = m.j :=
    Nat.mod_eq_of_lt (Nat.lt_trans (hC ▸ hj) (Nat.lt_trans s.opc.isLt (by decide)))
  have readS : (s.withMix m n).sTab.read m.i = m.s.getD m.i 0 := Memory.read_writeFrom_zero hs hi
  have readL : (s.withMix m n).lArr.read m.j = m.l.getD m.j 0 := Memory.read_writeFrom_zero hL hj
  have writeS (v : Word) : (s.withMix m n).sTab.write m.i v = s.sTab.writeFrom 0 (m.s.set m.i v) :=
    Memory.write_writeFrom hs hi v
  have writeL (v : Word) : (s.withMix m n).lArr.write m.j v = s.lArr.writeFrom 0 (m.l.set m.j v) :=
    Memory.write_writeFrom hL hj v
  have count : (s.withMix m n).k + 1 = BitVec.ofNat 32 (n + 1) := (BitVec.ofNat_add n 1).symm
  simp only [ksMixNext, hwi, hwj, readS, readL, writeS, writeL, count]
  simp only [State.withMix, mixStep, hS, hC]

include hw hz

/-- A KS_MIX micro-step is one pass through the mixing loop (41_key_schedule.md R134, R139). -/
theorem microStep_withMix (hp : s.phase = .ksMix) {m : Mix} (hm : m.Indexed) (hS : m.s.length = s.opt.toNat)
    (hC : m.l.length = s.opc.toNat) {n : Nat} (hn : n < mixCount s.opt.toNat s.opc.toNat) :
    microStep (s.withMix m n) =
      .next (if n + 1 = mixCount s.opt.toNat s.opc.toNat then finishBuild (s.withMix (mixStep w m) (n + 1))
        else s.withMix (mixStep w m) (n + 1)) := by
  have hk : (s.withMix m n).k.toNat = n := Nat.mod_eq_of_lt (Nat.lt_trans hn hz.mixCount_lt)
  have hi : (s.withMix m n).wi.toNat < s.opt.toNat := Nat.lt_of_le_of_lt (Nat.mod_le _ _) (hS ▸ hm.1)
  have hj : (s.withMix m n).wj.toNat < s.opc.toNat := Nat.lt_of_le_of_lt (Nat.mod_le _ _) (hC ▸ hm.2)
  have sized : (s.withMix m n).Sized := ⟨hz.rounds, hz.opt_eq, hz.opc_pos, hz.opc_le⟩
  rw [microStep_ksMix (s := s.withMix m n) hp hw sized (hk.symm ▸ hn) hi hj,
    ksMixNext_withMix hs hL w hm hS hC n, hk]
  rfl

/-- The whole mixing loop, to the completed BUILD (41_key_schedule.md R135, R136). -/
theorem runsTo_finishBuild (hp : s.phase = .ksMix) {m : Mix} (hm : m.Indexed) (hS : m.s.length = s.opt.toNat)
    (hC : m.l.length = s.opc.toNat) {N : Nat} (hN : N = mixCount s.opt.toNat s.opc.toNat) :
    RunsTo N (s.withMix m 0) (finishBuild (s.withMix (mixSteps w N m) N)) := by
  obtain ⟨n, rfl⟩ : ∃ n, N = n + 1 :=
    Nat.exists_eq_add_one.2 (hN ▸ Nat.lt_of_lt_of_le hz.opt_pos (le_mixCount _ _))
  have busy : ∀ i, (s.withMix (mixSteps w i m) i).phase ≠ .idle := fun i => by simp [State.withMix, hp]
  have pass : ∀ i, i ≤ n → microStep (s.withMix (mixSteps w i m) i) =
      .next (if i = n then finishBuild (s.withMix (mixSteps w (i + 1) m) (i + 1))
        else s.withMix (mixSteps w (i + 1) m) (i + 1)) := by
    intro i hi
    rw [microStep_withMix hw hz hs hL hp (mixSteps_indexed w i hm) (by simp [hS]) (by simp [hC]) (by omega), ← hN,
      mixSteps_succ]
    simp only [Nat.add_right_cancel_iff]
  have mixing : RunsTo n (s.withMix m 0) (s.withMix (mixSteps w n m) n) :=
    .of_sequence (f := fun i => s.withMix (mixSteps w i m) i) fun i hi =>
      ⟨busy i, by rw [pass i hi.le, if_neg hi.ne]⟩
  exact mixing.trans (.one (busy n) (by rw [pass n le_rfl, if_pos rfl]))

end

end Sys2Proof.Machine
end

section
/-! PROOFS. BUILD as a whole (41_key_schedule.md R137, R139): the two runs one after the other, from the accepted BUILD to
the context. -/

namespace Sys2Proof.Machine

/-- The variables at the start of the mixing loop are indexed by 0 (41_key_schedule.md R135). -/
theorem mixStart_indexed (w : Width) (r : Nat) (key : List Byte) : (mixStart w r key).Indexed :=
  ⟨by simp [mixStart], (keyWords_length w key).symm ▸ wordCount_pos w key.length⟩

@[simp] theorem mixStart_s_length (w : Width) (r : Nat) (key : List Byte) :
    (mixStart w r key).s.length = tableLength r := by simp [mixStart]

@[simp] theorem mixStart_l_length (w : Width) (r : Nat) (key : List Byte) :
    (mixStart w r key).l.length = wordCount w key.length := by simp [mixStart]

theorem keySchedule_length (w : Width) (r : Nat) (key : List Byte) : (keySchedule w r key).length = tableLength r := by
  simp [keySchedule]

section
variable {s : State} {w : Width} (hl : s.buildLegal w)
include hl

theorem startBuild_opt_toNat : (startBuild w s).opt.toNat = tableLength s.cfgR.toNat := by
  obtain ⟨_, _, hR⟩ := hl
  have := s.rMax.isLt
  exact Nat.mod_eq_of_lt (by simp only [tableLength_eq]; omega)

theorem startBuild_opc_toNat : (startBuild w s).opc.toNat = wordCount w s.cfgB.toNat := by
  obtain ⟨_, hB, _⟩ := hl
  exact Nat.mod_eq_of_lt (Nat.lt_of_le_of_lt (wordCount_le hB) (by decide))

theorem startBuild_sized : (startBuild w s).Sized := by
  have ⟨_, hB, hR⟩ := hl
  have hc := startBuild_opc_toNat hl
  exact ⟨hR, startBuild_opt_toNat hl, hc ▸ wordCount_pos w _, hc ▸ wordCount_le hB⟩

end

/-- An accepted BUILD after n passes through the mixing loop, on the tables that stood before it. -/
def buildAfter (w : Width) (s : State) (n : Nat) : State :=
  State.withMix (mixSteps w n (mixStart w s.cfgR.toNat (keyBytes s.key s.cfgB.toNat))) n
    { startMix (startBuild w s) with lArr := s.lArr }

/-- The two runs of an accepted BUILD: t steps of KS_INIT, then 3·max(t, c) of KS_MIX (41_key_schedule.md R137). -/
theorem runsTo_build {s : State} {w : Width} (hl : s.buildLegal w) (hs : s.sTab.wf = true) (hL : s.lArr.wf = true)
    {t c : Nat} (ht : tableLength s.cfgR.toNat = t) (hc : wordCount w s.cfgB.toNat = c) :
    RunsTo (t + mixCount t c) (startBuild w s) (finishBuild (buildAfter w s (mixCount t c))) := by
  have hz := startBuild_sized hl
  have hw : Width.ofField (startBuild w s).opw = some w := hl.1
  have hS := (mixStart_s_length w s.cfgR.toNat (keyBytes s.key s.cfgB.toNat)).trans (startBuild_opt_toNat hl).symm
  have hC : (mixStart w s.cfgR.toNat (keyBytes s.key s.cfgB.toNat)).l.length = (startBuild w s).opc.toNat := by
    rw [mixStart_l_length, keyBytes_length, startBuild_opc_toNat hl]
  have start : startMix ((startBuild w s).initialised w t) = buildAfter w s 0 := by
    rw [← ht]
    rfl
  have filling := runsTo_startMix (s := startBuild w s) rfl hw hz hs rfl
  have mixing := runsTo_finishBuild (s := { startMix (startBuild w s) with lArr := s.lArr }) hw
    ⟨hz.rounds, hz.opt_eq, hz.opc_pos, hz.opc_le⟩ hs hL rfl (mixStart_indexed w _ _) hS hC rfl
  rw [startBuild_opt_toNat hl, ht, start] at filling
  simp only [startMix_opt, startMix_opc, startBuild_opt_toNat hl, startBuild_opc_toNat hl, ht, hc] at mixing
  exact filling.trans mixing

/-- The completed table is the key schedule (41_key_schedule.md R139). -/
theorem buildAfter_sTab_read (w : Width) {s : State} (hs : s.sTab.wf = true) {i : Nat}
    (hi : i < tableLength s.cfgR.toNat) :
    (buildAfter w s (mixCount (tableLength s.cfgR.toNat) (wordCount w s.cfgB.toNat))).sTab.read i =
      (keySchedule w s.cfgR.toNat (keyBytes s.key s.cfgB.toNat)).getD i 0 := by
  rw [keySchedule, keyBytes_length]
  exact Memory.read_writeFrom_zero hs (by simpa using hi)

/-- Settles O37: the run of `runsTo_build`, and what the completed BUILD holds. -/
theorem buildComputesTheKeySchedule : Obligations.BuildComputesTheKeySchedule := by
  intro s w hb hbits hB hR htables
  obtain ⟨hs, hL, _⟩ := htables
  have hl : s.buildLegal w := ⟨Width.ofField_eq_some.2 hbits, hB, hR⟩
  obtain ⟨run, busy⟩ := runsTo_build hl hs hL rfl rfl
  exact ⟨_, _, exec_build_of_legal hb hl, run, busy, rfl, rfl, rfl, rfl, rfl, rfl, rfl, rfl,
    keySchedule_length w _ _, fun i hi => buildAfter_sTab_read w hs hi, fun j => rfl, fun q => rfl, rfl, rfl⟩

end Sys2Proof.Machine
end

section
/-! PROOFS. Encrypt and Decrypt as functions (42_block_cipher.md R150, R151): each part of the one is undone by the same part
of the other, on words of the width, and so the whole (R161, R162). -/

namespace Sys2Proof.Machine

/-- Subtracting an operand and adding it back (40_datapath.md R116, the other way round). -/
theorem addW_subW_cancel (w : Width) {x y : Word} (hx : x.toNat < 2 ^ w.bits) (hy : y.toNat < 2 ^ w.bits) :
    addW w (subW w x y) y = x := by
  have borrow : y.toNat ≤ x.toNat + 2 ^ w.bits := by omega
  apply BitVec.eq_of_toNat_eq
  rw [addW_toNat, subW_toNat, Nat.mod_add_mod, Nat.sub_add_cancel borrow, Nat.add_mod_right, Nat.mod_eq_of_lt hx]

/-- Both words of a block have width w. -/
def BlockFits (w : Width) (x : Word × Word) : Prop := x.1.toNat < 2 ^ w.bits ∧ x.2.toNat < 2 ^ w.bits

/-! A half-round: its key word `t`, its other word `y` and its rotation amount `n` are the same in both directions. -/

section
variable {w : Width} {x y t : Word}

/-- The half-round of Decrypt undoes that of Encrypt. -/
theorem halfRound_undo (hx : x.toNat < 2 ^ w.bits) (hy : y.toNat < 2 ^ w.bits) (ht : t.toNat < 2 ^ w.bits) (n : Nat) :
    rotrW w (subW w (addW w (rotlW w (x ^^^ y) n) t) t) n ^^^ y = x := by
  have hxy := xor_lt hx hy
  rw [subW_addW_cancel w (rotlW_lt w hxy n) ht, rotrW_rotlW w hxy, xor_cancel_right]

/-- The half-round of Encrypt undoes that of Decrypt. -/
theorem halfRound_redo (hx : x.toNat < 2 ^ w.bits) (ht : t.toNat < 2 ^ w.bits) (n : Nat) :
    addW w (rotlW w (rotrW w (subW w x t) n ^^^ y ^^^ y) n) t = x := by
  rw [xor_cancel_right, rotlW_rotrW w (subW_lt w x t), addW_subW_cancel w hx ht]

/-- The half-round of Decrypt answers a word of the width. -/
theorem decryptHalf_lt (x : Word) (hy : y.toNat < 2 ^ w.bits) (t : Word) (n : Nat) :
    (rotrW w (subW w x t) n ^^^ y).toNat < 2 ^ w.bits :=
  xor_lt (rotrW_lt w (subW_lt w x t) n) hy

end

/-! One round. -/

section
variable {w : Width} {tab : Nat → Word} {i : Nat} {x : Word × Word}

theorem whiten_fits (w : Width) (tab : Nat → Word) (x : Word × Word) : BlockFits w (whiten w tab x) :=
  ⟨addW_lt w _ _, addW_lt w _ _⟩

theorem encryptRound_fits (w : Width) (tab : Nat → Word) (i : Nat) (x : Word × Word) :
    BlockFits w (encryptRound w tab i x) :=
  ⟨addW_lt w _ _, addW_lt w _ _⟩

theorem decryptRound_fits (hx : BlockFits w x) : BlockFits w (decryptRound w tab i x) := by
  have hb := decryptHalf_lt x.2 hx.1 (tab (2 * i + 1)) (rotAmount w x.1)
  exact ⟨decryptHalf_lt _ hb _ _, hb⟩

/-- Decrypt's round undoes Encrypt's: the second half-round, then the first. -/
theorem decryptRound_encryptRound (hx : BlockFits w x) (h0 : (tab (2 * i)).toNat < 2 ^ w.bits)
    (h1 : (tab (2 * i + 1)).toNat < 2 ^ w.bits) : decryptRound w tab i (encryptRound w tab i x) = x := by
  simp only [encryptRound, decryptRound, halfRound_undo hx.2 (addW_lt w _ _) h1, halfRound_undo hx.1 hx.2 h0]

/-- Encrypt's round undoes Decrypt's: the first half-round, then the second. -/
theorem encryptRound_decryptRound (hx : BlockFits w x) (h0 : (tab (2 * i)).toNat < 2 ^ w.bits)
    (h1 : (tab (2 * i + 1)).toNat < 2 ^ w.bits) : encryptRound w tab i (decryptRound w tab i x) = x := by
  simp only [encryptRound, decryptRound, halfRound_redo hx.1 h0, halfRound_redo hx.2 h1]

theorem unwhiten_whiten (hx : BlockFits w x) (h0 : (tab 0).toNat < 2 ^ w.bits) (h1 : (tab 1).toNat < 2 ^ w.bits) :
    unwhiten w tab (whiten w tab x) = x := by
  simp only [unwhiten, whiten, subW_addW_cancel w hx.1 h0, subW_addW_cancel w hx.2 h1]

theorem whiten_unwhiten (hx : BlockFits w x) (h0 : (tab 0).toNat < 2 ^ w.bits) (h1 : (tab 1).toNat < 2 ^ w.bits) :
    whiten w tab (unwhiten w tab x) = x := by
  simp only [unwhiten, whiten, addW_subW_cancel w hx.1 h0, addW_subW_cancel w hx.2 h1]

end

/-! All rounds. Encrypt's last round is Decrypt's first, so both directions peel off round r. -/

section
variable {w : Width} {tab : Nat → Word} {x : Word × Word}

theorem encryptRounds_fits (r : Nat) (hx : BlockFits w x) : BlockFits w (encryptRounds w tab r x) := by
  cases r with
  | zero => exact hx
  | succ r => exact encryptRound_fits w tab _ _

theorem decryptRounds_fits (r : Nat) (hx : BlockFits w x) : BlockFits w (decryptRounds w tab r x) := by
  induction r generalizing x with
  | zero => exact hx
  | succ r ih => exact ih (decryptRound_fits hx)

theorem decryptRounds_encryptRounds {r : Nat} (hx : BlockFits w x)
    (ht : ∀ i, i < 2 * r + 2 → (tab i).toNat < 2 ^ w.bits) :
    decryptRounds w tab r (encryptRounds w tab r x) = x := by
  induction r with
  | zero => rfl
  | succ r ih =>
    rw [encryptRounds, decryptRounds,
      decryptRound_encryptRound (encryptRounds_fits r hx) (ht _ (by omega)) (ht _ (by omega))]
    exact ih fun i hi => ht i (by omega)

theorem encryptRounds_decryptRounds {r : Nat} (hx : BlockFits w x)
    (ht : ∀ i, i < 2 * r + 2 → (tab i).toNat < 2 ^ w.bits) :
    encryptRounds w tab r (decryptRounds w tab r x) = x := by
  induction r generalizing x with
  | zero => rfl
  | succ r ih =>
    rw [encryptRounds, decryptRounds, ih (decryptRound_fits hx) fun i hi => ht i (by omega)]
    exact encryptRound_decryptRound hx (ht _ (by omega)) (ht _ (by omega))

end

/-- Settles O42: the rounds undo each other between the whitening and its removal. -/
theorem decryptInvertsEncrypt : Obligations.DecryptInvertsEncrypt := by
  intro w r tab a b ht ha hb
  have hx : BlockFits w (a, b) := ⟨ha, hb⟩
  have h0 := ht 0 (by omega)
  have h1 := ht 1 (by omega)
  constructor
  · rw [decryptBlock, encryptBlock, decryptRounds_encryptRounds (whiten_fits w tab _) ht, unwhiten_whiten hx h0 h1]
  · rw [encryptBlock, decryptBlock, whiten_unwhiten (decryptRounds_fits r hx) h0 h1, encryptRounds_decryptRounds hx ht]

/-- With no rounds Encrypt is the whitening (42_block_cipher.md R162). -/
@[simp] theorem encryptBlock_zero (w : Width) (tab : Nat → Word) (x : Word × Word) :
    encryptBlock w tab 0 x = whiten w tab x := rfl

/-- With no rounds Decrypt is the removal of the whitening (42_block_cipher.md R162). -/
@[simp] theorem decryptBlock_zero (w : Width) (tab : Nat → Word) (x : Word × Word) :
    decryptBlock w tab 0 x = unwhiten w tab x := rfl

/-- Settles O43: both transforms at r = 0. -/
theorem zeroRoundsIsWhiteningOnly : Obligations.ZeroRoundsIsWhiteningOnly := fun w tab a b =>
  ⟨encryptBlock_zero w tab (a, b), decryptBlock_zero w tab (a, b)⟩

end Sys2Proof.Machine
end

section
/-! PROOFS. The acceptance of ENCRYPT and DECRYPT on an idle engine (42_block_cipher.md R153, R157, 60_exceptions.md R185). -/

namespace Sys2Proof.Machine

theorem withContext_of_valid {s : State} (h : s.valid = true) (op : BitVec 4) (start : State → State) :
    withContext op start s = start s := if_pos h

theorem withContext_of_invalid {s : State} (h : s.valid = false) (op : BitVec 4) (start : State → State) :
    withContext op start s = s.recordError .noContext op := if_neg (Bool.eq_false_iff.1 h)

theorem exec_encrypt_of_valid {s : State} (hb : s.busy = false) (hv : s.valid = true) :
    exec .encrypt s = .next { latchBlock 2 s with phase := .encPre } := by
  simp only [exec, execEncrypt, whenIdle_of_idle hb, acceptEncrypt, withContext_of_valid hv]

theorem exec_encrypt_of_invalid {s : State} (hb : s.busy = false) (hv : s.valid = false) :
    exec .encrypt s = .next (s.recordError .noContext 2) := by
  simp only [exec, execEncrypt, whenIdle_of_idle hb, acceptEncrypt, withContext_of_invalid hv]

theorem exec_decrypt_of_valid {s : State} (hb : s.busy = false) (hv : s.valid = true) :
    exec .decrypt s = .next
      { latchBlock 3 s with k := s.ctxR, phase := if s.ctxR.toNat = 0 then Phase.decPost else Phase.decRound } := by
  have noRounds : s.ctxR = 0 ↔ s.ctxR.toNat = 0 := BitVec.toNat_inj.symm
  simp only [exec, execDecrypt, whenIdle_of_idle hb, acceptDecrypt, withContext_of_valid hv, noRounds]

theorem exec_decrypt_of_invalid {s : State} (hb : s.busy = false) (hv : s.valid = false) :
    exec .decrypt s = .next (s.recordError .noContext 3) := by
  simp only [exec, execDecrypt, whenIdle_of_idle hb, acceptDecrypt, withContext_of_invalid hv]

/-- Settles O9: the latched state field by field, and the recorded error. -/
theorem encryptAcceptance : Obligations.EncryptAcceptance :=
  ⟨fun _ hb hv => ⟨_, exec_encrypt_of_valid hb hv, rfl⟩, fun _ hb hv => exec_encrypt_of_invalid hb hv⟩

/-- Settles O10: the latched state field by field, with the first phase by the round count, and the recorded error. -/
theorem decryptAcceptance : Obligations.DecryptAcceptance :=
  ⟨fun _ hb hv => ⟨_, exec_decrypt_of_valid hb hv, rfl⟩, fun _ hb hv => exec_decrypt_of_invalid hb hv⟩

end Sys2Proof.Machine
end

section
/-! PROOFS. The micro-steps of the block commands (42_block_cipher.md R154, R155, R158, R159), which never stop under the
invariant, and their completion (R160). -/

namespace Sys2Proof.Machine

/-- A round of a block command reads entries of the S table (42_block_cipher.md R150, R151, 00_scope.md R8). -/
theorem State.Inv.round_lt_sMax {s : State} (h : s.Inv) (hl : s.blockLatched) (hk : s.k.toNat ≤ s.opr.toNat) :
    2 * s.k.toNat + 1 < Config.sMax s.rMax := by
  obtain ⟨hv, _, hr, _⟩ := hl
  obtain ⟨_, bound, _⟩ := h.context hv
  rw [Config.sMax]
  rw [hr] at hk
  omega

section
variable {s : State} {w : Width} (hw : Width.ofField s.opw = some w)
include hw

theorem microStep_encPre (hp : s.phase = .encPre) :
    microStep s = .next
      (if s.opr.toNat = 0 then finishBlock { s.setWords (whiten w s.sTab.read (s.wa, s.wb)) with k := 1 }
        else { s.setWords (whiten w s.sTab.read (s.wa, s.wb)) with k := 1, phase := .encRound }) := by
  have noRounds : s.opr = 0 ↔ s.opr.toNat = 0 := BitVec.toNat_inj.symm
  simp only [microStep, hp, atWidth_of hw, encPreStep, noRounds]

theorem microStep_encRound (hi : s.Inv) (hp : s.phase = .encRound) :
    microStep s = .next
      (if s.k = s.opr then finishBlock (s.setWords (encryptRound w s.sTab.read s.k.toNat (s.wa, s.wb)))
        else { s.setWords (encryptRound w s.sTab.read s.k.toNat (s.wa, s.wb)) with k := s.k + 1 }) := by
  obtain ⟨hl, _, _, hk⟩ := hi.encRound hp
  simp only [microStep, hp, atWidth_of hw, encRoundStep, if_pos (hi.round_lt_sMax hl hk)]

theorem microStep_decRound (hi : s.Inv) (hp : s.phase = .decRound) :
    microStep s = .next
      (if s.k.toNat = 1 then { s.setWords (decryptRound w s.sTab.read s.k.toNat (s.wa, s.wb)) with phase := .decPost }
        else { s.setWords (decryptRound w s.sTab.read s.k.toNat (s.wa, s.wb)) with k := s.k - 1 }) := by
  obtain ⟨hl, _, _, hk⟩ := hi.decRound hp
  have last : s.k = 1 ↔ s.k.toNat = 1 := BitVec.toNat_inj.symm
  simp only [microStep, hp, atWidth_of hw, decRoundStep, if_pos (hi.round_lt_sMax hl hk), last]

theorem microStep_decPost (hp : s.phase = .decPost) :
    microStep s = .next (finishBlock (s.setWords (unwhiten w s.sTab.read (s.wa, s.wb)))) := by
  simp only [microStep, hp, atWidth_of hw, decPostStep]

end

/-- Completion, with the outputs cut to the width the command works at (42_block_cipher.md R160). -/
theorem finishBlock_eq {s : State} {n : Nat} (h : s.opw.toNat = n) :
    finishBlock s = { s with aOut := lowBits n s.wa, bOut := lowBits n s.wb, done := true, phase := .idle } := by
  subst h
  rfl

/-- Settles O40: each of the two micro-steps completes in its last case alone. -/
theorem encryptMicroSteps : Obligations.EncryptMicroSteps := by
  refine ⟨fun s w hi hp hbits => ?_, fun s w hi hp hbits => ?_⟩
  · rw [microStep_encPre (Width.ofField_eq_some.2 hbits) hp]
    exact congrArg _ (if_congr .rfl (finishBlock_eq hbits) rfl)
  · rw [microStep_encRound (Width.ofField_eq_some.2 hbits) hi hp]
    exact congrArg _ (if_congr .rfl (finishBlock_eq hbits) rfl)

/-- Settles O41: the last round leads to DEC_POST, and that micro-step completes. -/
theorem decryptMicroSteps : Obligations.DecryptMicroSteps := by
  refine ⟨fun s w hi hp hbits => ?_, fun s w hi hp hbits => ?_⟩
  · exact microStep_decRound (Width.ofField_eq_some.2 hbits) hi hp
  · rw [microStep_decPost (Width.ofField_eq_some.2 hbits) hp]
    exact congrArg _ (finishBlock_eq hbits)

end Sys2Proof.Machine
end

section
/-! PROOFS. The outputs A_OUT and B_OUT (42_block_cipher.md R160): what each kind of step leaves of them. -/

namespace Sys2Proof.Machine

/-- A_OUT and B_OUT. -/
def State.outputs (s : State) : Word × Word := (s.aOut, s.bOut)

theorem State.outputs_eq_iff {s : State} {x : Word × Word} : s.outputs = x ↔ s.aOut = x.1 ∧ s.bOut = x.2 := Prod.ext_iff

/-- No register the Host writes is an output (20_memory.md R66). -/
theorem RegisterEffect.outputs_eq {s t : State} (h : RegisterEffect s t) : t.outputs = s.outputs := by cases h <;> rfl

/-- A command word leaves the outputs, or is a CLEAR presented to an idle engine, which zeroes both. -/
theorem CommandEffect.outputs_eq {d : Except DecodeReject Instr} {s t : State} (h : CommandEffect d s t) :
    t.outputs = s.outputs ∨ (t.outputs = (0, 0) ∧ s.busy = false ∧ d = .ok .clear) := by
  cases h with
  | clear hd hb => exact .inr ⟨rfl, hb, hd⟩
  | nop | dropped | failed | build | encrypt | decrypt => exact .inl rfl

/-- The micro-step from s to t completes a block command: t is the completion of a state with the same OPW. -/
structure CompletesBlock (s t : State) : Prop where
  phase : s.phase = .encPre ∨ s.phase = .encRound ∨ s.phase = .decPost
  finished : ∃ u : State, t = finishBlock u ∧ u.opw = s.opw

theorem CompletesBlock.idle {s t : State} (h : CompletesBlock s t) : t.phase = .idle := by
  obtain ⟨u, rfl, _⟩ := h.finished
  exact finishBlock_phase u

theorem CompletesBlock.done {s t : State} (h : CompletesBlock s t) : t.done = true := by
  obtain ⟨u, rfl, _⟩ := h.finished
  exact finishBlock_done u

/-- Completion leaves the low OPW bits of WA and WB in the outputs (42_block_cipher.md R160). -/
theorem CompletesBlock.outputs_toNat {s t : State} {w : Width} (h : CompletesBlock s t)
    (hw : Width.ofField s.opw = some w) :
    t.aOut.toNat = t.wa.toNat % 2 ^ s.opw.toNat ∧ t.bOut.toNat = t.wb.toNat % 2 ^ s.opw.toNat := by
  obtain ⟨u, rfl, hu⟩ := h.finished
  have inElement : u.opw.toNat ≤ 64 := by
    rw [hu, Width.ofField_eq_some.1 hw]
    exact w.bits_le
  rw [← hu]
  exact ⟨lowBits_toNat inElement u.wa, lowBits_toNat inElement u.wb⟩

/-- A micro-step of a busy engine goes on only at one of the three widths (10_state.md R37). -/
theorem microStep_width {s t : State} (hp : s.phase ≠ .idle) (h : microStep s = .next t) :
    ∃ w, Width.ofField s.opw = some w := by
  rcases microStep_cases h with ⟨hidle, _⟩ | ⟨w, hw, _⟩
  · exact absurd hidle hp
  · exact ⟨w, hw⟩

/-- A micro-step completes a block command or leaves the outputs; then it does not return to IDLE, unless it is the last
of a BUILD or the turn of an idle engine. -/
theorem microStep_outputs {s t : State} (h : microStep s = .next t) :
    CompletesBlock s t ∨ (t.outputs = s.outputs ∧ (t.phase = .idle → s.phase = .idle ∨ s.phase = .ksMix)) := by
  rcases microStep_cases h with
    ⟨hp, rfl⟩ | ⟨w, _, ⟨hp, hk⟩ | ⟨hp, hk⟩ | ⟨hp, he⟩ | ⟨hp, he⟩ | ⟨hp, hd⟩ | ⟨hp, hd⟩⟩
  · exact .inr ⟨rfl, fun _ => .inl hp⟩
  · obtain ⟨_, _, _, _, rfl, rfl⟩ := ksInitStep_next hk
    split
    · exact .inr ⟨rfl, nofun⟩
    · exact .inr ⟨rfl, fun hidle => .inl hidle⟩
  · obtain ⟨_, _, _, _, _, _, _, rfl, rfl⟩ := ksMixStep_next hk
    split <;> exact .inr ⟨rfl, fun _ => .inr hp⟩
  · cases he
    split
    · exact .inl ⟨.inl hp, _, rfl, rfl⟩
    · exact .inr ⟨rfl, nofun⟩
  · obtain ⟨_, _, rfl, rfl⟩ := encRoundStep_next he
    split
    · exact .inl ⟨.inr (.inl hp), _, rfl, rfl⟩
    · exact .inr ⟨rfl, fun hidle => .inl hidle⟩
  · obtain ⟨_, _, rfl, rfl⟩ := decRoundStep_next hd
    split
    · exact .inr ⟨rfl, nofun⟩
    · exact .inr ⟨rfl, fun hidle => .inl hidle⟩
  · cases hd
    exact .inl ⟨.inr (.inr hp), _, rfl, rfl⟩

/-- Settles O53: the cases of a micro-step, then those of a step. -/
theorem outputsChangeOnlyAtCompletion : Obligations.OutputsChangeOnlyAtCompletion := by
  refine ⟨fun s t hblock h => ?_, fun s t h => ?_⟩
  · rcases microStep_outputs h with hc | ⟨kept, notLast⟩
    · have busy : s.phase ≠ .idle := by rcases hc.phase with hp | hp | hp <;> simp [hp]
      obtain ⟨w, hw⟩ := microStep_width busy h
      obtain ⟨ha, hb⟩ := hc.outputs_toNat hw
      exact ⟨fun _ => ⟨ha, hb, hc.done⟩, fun running => absurd hc.idle running⟩
    · refine ⟨fun hidle => ?_, fun _ => State.outputs_eq_iff.1 kept⟩
      rcases notLast hidle with hp | hp <;> simp [hp] at hblock
  · rcases step_cases h with
      ⟨hr, rfl⟩ | ⟨ht, hm⟩ | ⟨_, _, rfl⟩ | ⟨_, p, r, u, rfl, he⟩ | ⟨ht, cw, rest, u, hp, rfl, he⟩
    · exact .inr (.inl ⟨rfl, rfl, hr⟩)
    · rcases microStep_outputs hm with hc | ⟨kept, _⟩
      · exact .inr (.inr (.inr ⟨ht, hc.phase, hc.idle, hc.done⟩))
      · exact .inl (State.outputs_eq_iff.1 kept)
    · exact .inl ⟨rfl, rfl⟩
    · exact .inl (State.outputs_eq_iff.1 he.outputs_eq)
    · rcases he.outputs_eq with kept | ⟨zeroed, hb, hd⟩
      · exact .inl (State.outputs_eq_iff.1 kept)
      · obtain ⟨haOut, hbOut⟩ := State.outputs_eq_iff.1 zeroed
        exact .inr (.inr (.inl ⟨haOut, hbOut, cw, ⟨ht, hb, rest, hp⟩, hd⟩))

end Sys2Proof.Machine
end

section
/-! PROOFS. The words that do nothing or are refused: NOP (43_control.md R170) and the illegal ones (R172). -/

namespace Sys2Proof

/-- NOP's word is 0 (30_encoding.md R91). -/
theorem encode_nop : encode .nop = 0 := rfl

theorem decode_eq_nop_iff {cw : BitVec 64} : decode cw = .ok .nop ↔ cw = 0 := by
  rw [decode_eq_ok_iff, encode_nop]

/-- With OP = 0, only RES can tell a word from NOP's (43_control.md R170). -/
theorem resField_ne_zero {cw : BitVec 64} (ho : opField cw = 0) (h0 : cw ≠ 0) : resField cw ≠ 0 :=
  fun hr => h0 ((eq_encode_iff (i := .nop)).2 ⟨hr, ho⟩)

namespace Machine

/-- Settles O6: the word by the decoder, and both ways to run it. -/
theorem nopChangesNothing : Obligations.NopChangesNothing :=
  ⟨encode_nop, fun _ h => decode_eq_nop_iff.1 h, fun _ ho h0 => decode_of_reserved (resField_ne_zero ho h0),
    fun s => ⟨rfl, acceptWord_encode .nop s⟩⟩

/-- Settles O5: the decoder's refusals, and the error an idle engine records for one. -/
theorem illegalWordIsRecorded : Obligations.IllegalWordIsRecorded :=
  ⟨fun _ => decode_eq_error_iff, fun _ _ hb h => acceptWord_of_illegal hb h, rfl⟩

end Machine

end Sys2Proof
end

section
/-! PROOFS. CLEAR of an idle engine (43_control.md R171): the state it leaves holds no context and no key material. -/

namespace Sys2Proof.Machine

theorem exec_clear_of_idle {s : State} (hb : s.busy = false) : exec .clear s = .next (acceptClear s) := by
  simp only [exec, execClear, whenIdle_of_idle hb]

/-- S_DATA is closed without a context (10_state.md R33). -/
theorem State.sData_of_invalid {s : State} (hv : s.valid = false) : s.sData = 0 := by
  simp [State.sData, hv]

/-- Empty tables are canonical and within every bound. -/
theorem acceptClear_tablesOk (s : State) : (acceptClear s).tablesOk := by
  simp [State.tablesOk]

/-- An idle engine without a context answers a block command with NO_CONTEXT (60_exceptions.md R185). -/
theorem exec_block_noContext {s : State} (hb : s.busy = false) (hv : s.valid = false) {i : Instr}
    (hi : i = .encrypt ∨ i = .decrypt) : ∃ t, exec i s = .next t ∧ t.err = .noContext := by
  rcases hi with rfl | rfl
  · exact ⟨_, exec_encrypt_of_invalid hb hv, State.recordError_err ..⟩
  · exact ⟨_, exec_decrypt_of_invalid hb hv, State.recordError_err ..⟩

/-- Settles O12: the cleared state field by field; its tables are empty and VALID is 0, which gives the rest. -/
theorem clearDropsContextAndKeys : Obligations.ClearDropsContextAndKeys := by
  intro s hb
  have empty (a : Nat) : (acceptClear s).sTab.read a = 0 ∧ (acceptClear s).lArr.read a = 0 ∧
      (acceptClear s).key.read a = 0 := by simp
  have idle : (acceptClear s).busy = false := busy_eq_false.2 (busy_eq_false.1 hb)
  exact ⟨acceptClear s, exec_clear_of_idle hb, rfl, empty, acceptClear_tablesOk s,
    fun _ => State.sData_of_invalid rfl, fun _ hi => exec_block_noContext idle rfl hi⟩

end Sys2Proof.Machine
end

section
/-! PROOFS. OVERRUN and ERR (43_control.md R173, 60_exceptions.md R191): what each kind of step leaves of them. -/

namespace Sys2Proof.Machine

/-- The two fields of STATUS that last until the next command: OVERRUN and ERR. -/
def State.lasting (s : State) : Bool × ErrCode := (s.overrun, s.err)

theorem State.lasting_eq_iff {s t : State} : t.lasting = s.lasting ↔ t.overrun = s.overrun ∧ t.err = s.err :=
  Prod.ext_iff

/-- No register the Host writes holds OVERRUN or ERR (20_memory.md R66). -/
theorem RegisterEffect.lasting_eq {s t : State} (h : RegisterEffect s t) : t.lasting = s.lasting := by cases h <;> rfl

/-- No micro-step writes OVERRUN or ERR, the completing ones included (43_control.md R173, 41_key_schedule.md R136). -/
theorem microStep_lasting_eq {s t : State} (h : microStep s = .next t) : t.lasting = s.lasting := by
  rcases microStep_cases h with
    ⟨_, rfl⟩ | ⟨w, _, ⟨_, hk⟩ | ⟨_, hk⟩ | ⟨_, he⟩ | ⟨_, he⟩ | ⟨_, hd⟩ | ⟨_, hd⟩⟩
  · rfl
  · obtain ⟨_, _, _, _, rfl, rfl⟩ := ksInitStep_next hk
    split <;> rfl
  · obtain ⟨_, _, _, _, _, _, _, rfl, rfl⟩ := ksMixStep_next hk
    split <;> rfl
  · cases he
    split <;> rfl
  · obtain ⟨_, _, rfl, rfl⟩ := encRoundStep_next he
    split <;> rfl
  · obtain ⟨_, _, rfl, rfl⟩ := decRoundStep_next hd
    split <;> rfl
  · cases hd
    rfl

/-- A command word keeps OVERRUN set and leaves ERR, unless it is another than NOP's and finds the engine idle. -/
theorem CommandEffect.keeps_or_idle {d : Except DecodeReject Instr} {s t : State} (h : CommandEffect d s t) :
    ((s.overrun = true → t.overrun = true) ∧ t.err = s.err) ∨ (s.busy = false ∧ d ≠ .ok .nop) := by
  cases h with
  | nop => exact .inl ⟨id, rfl⟩
  | dropped => exact .inl ⟨fun _ => rfl, rfl⟩
  | failed hd _ hb => exact .inr ⟨hb, hd⟩
  | build hd hb | encrypt hd hb | decrypt hd hb | clear hd hb => exact .inr ⟨hb, by simp [hd]⟩

/-- Any word but NOP's on an idle engine clears OVERRUN, and ERR too where a command starts or is CLEAR; only a failed
one leaves a code (60_exceptions.md R190, R191). -/
theorem CommandEffect.cleared {d : Except DecodeReject Instr} {s t : State} (h : CommandEffect d s t)
    (hb : s.busy = false) (hd : d ≠ .ok .nop) :
    t.overrun = false ∧ (t.phase ≠ .idle ∨ d = .ok .clear → t.err = .noError) := by
  cases h with
  | nop hnop => exact absurd hnop hd
  | dropped _ hbusy => simp [hb] at hbusy
  | failed _ hclear =>
    refine ⟨rfl, fun accepted => ?_⟩
    rcases accepted with started | isClear
    · exact absurd (busy_eq_false.1 hb) started
    · exact absurd isClear hclear
  | build | encrypt | decrypt | clear => exact ⟨rfl, fun _ => rfl⟩

/-- A step keeps OVERRUN set and leaves ERR, or is a reset, or presents a word other than NOP's to an idle engine. -/
theorem step_keeps_overrun_and_err {s t : State} (h : step s = .next t) :
    ((s.overrun = true → t.overrun = true) ∧ t.err = s.err) ∨ s.turn = .reset ∨ ∃ cw, cw ≠ 0 ∧ s.presents cw := by
  have keeps {u : State} (hu : u.lasting = s.lasting) :
      (s.overrun = true → u.overrun = true) ∧ u.err = s.err := by
    obtain ⟨overrun, err⟩ := State.lasting_eq_iff.1 hu
    exact ⟨overrun.trans, err⟩
  rcases step_cases h with
    ⟨hr, _⟩ | ⟨_, hm⟩ | ⟨_, _, rfl⟩ | ⟨_, p, r, u, rfl, he⟩ | ⟨ht, cw, rest, u, hp, rfl, he⟩
  · exact .inr (.inl hr)
  · exact .inl (keeps (microStep_lasting_eq (s := { s with schedule := s.schedule.tail }) hm))
  · exact .inl (keeps rfl)
  · exact .inl (keeps he.lasting_eq)
  · rcases he.keeps_or_idle with kept | ⟨hb, hd⟩
    · exact .inl kept
    · exact .inr (.inr ⟨cw, mt decode_eq_nop_iff.2 hd, ht, hb, rest, hp⟩)

/-- A reset turn is the reset input, whatever the engine is doing (70_reset_and_hazards.md R200). -/
theorem step_of_reset {s t : State} (hr : s.turn = .reset) (h : step s = .next t) :
    t = resetInput { s with schedule := s.schedule.tail } := by
  rw [step_turn, hr] at h
  exact (Host.Outcome.next.inj h).symm

/-- Settles O14: a dropped word, a micro-step, a word on an idle engine, a reset, and any step. -/
theorem overrunAndErrorLast : Obligations.OverrunAndErrorLast := by
  refine ⟨fun cw s t hb h0 h => ?_, fun s t h => ?_, fun cw s t hb h0 h => ?_, fun s t hr h => ?_, fun s t h => ?_⟩
  · exact Host.Outcome.next.inj (h.symm.trans (acceptWord_of_busy h0 hb))
  · exact State.lasting_eq_iff.1 (microStep_lasting_eq h)
  · obtain ⟨u, hu, he⟩ := acceptWord_effect cw s
    obtain rfl := Host.Outcome.next.inj (h.symm.trans hu)
    exact he.cleared hb (mt decode_eq_nop_iff.1 h0)
  · rw [step_of_reset hr h]
    exact ⟨resetInput_overrun _, resetInput_err _⟩
  · exact step_keeps_overrun_and_err h

end Sys2Proof.Machine
end

section
/-! PROOFS. Non-zero words written to a busy engine (60_exceptions.md R187). -/

namespace Sys2Proof.Machine

/-- 0 is the word of NOP alone (30_encoding.md R91). -/
theorem encode_ne_zero {i : Instr} (h : i ≠ .nop) : encode i ≠ 0 := by
  rwa [Ne, ← decode_eq_nop_iff, decode_encode, Except.ok.injEq]

/-- While BUSY, any command but NOP is dropped (43_control.md R173). -/
theorem exec_of_busy {i : Instr} {s : State} (hi : i ≠ .nop) (hb : s.busy = true) : exec i s = .next s.dropCommand :=
  (acceptWord_encode i s).symm.trans (acceptWord_of_busy (encode_ne_zero hi) hb)

/-- Settles O13: the dropped word, and the dropped command. -/
theorem busyEngineDropsCommands : Obligations.BusyEngineDropsCommands :=
  ⟨fun _ _ hb h0 => acceptWord_of_busy h0 hb, fun _ _ hb hi => exec_of_busy hi hb⟩

end Sys2Proof.Machine
end

section
/-! PROOFS. What recording an error leaves (60_exceptions.md R190): STATUS as the Host reads it after a failed BUILD
(R182 to R184), the outputs after a block command without a context (R185), and everything but the four fields of STATUS. -/

namespace Sys2Proof.Machine

/-- With OVERRUN = 0, DONE = 1 and BUSY = 0, bits [7:2] of STATUS are the number 1 (10_state.md R26). -/
theorem statusFlags_of_done (v : Bool) :
    (0 : BitVec 4) ++ (BitVec.ofBool false ++ (BitVec.ofBool true ++ (BitVec.ofBool v ++ BitVec.ofBool false))) =
      (1 : BitVec 6) ++ (BitVec.ofBool v ++ (0 : BitVec 1)) := by
  cases v <;> rfl

/-- STATUS after an idle engine has recorded an error (10_state.md R26, 60_exceptions.md R190). -/
theorem State.statusWord_recordError {s : State} (hb : s.busy = false) (c : ErrCode) (op : BitVec 4) :
    (s.recordError c op).statusWord =
      (0 : BitVec 44) ++ (op ++ (c.code ++ ((1 : BitVec 6) ++ (BitVec.ofBool s.valid ++ (0 : BitVec 1))))) := by
  have idle : (s.recordError c op).busy = false := busy_eq_false.2 (busy_eq_false.1 hb)
  rw [State.statusWord, idle, ← statusFlags_of_done]
  rfl

/-- Settles O8: the check that fails names the error recorded, and STATUS is read at its offset. -/
theorem failedBuildStatusWord : Obligations.FailedBuildStatusWord := by
  intro s code hb hfail
  have fails : ∃ c : ErrCode, c.code = code ∧ exec .build s = .next (s.recordError c 1) := by
    rcases hfail with ⟨rfl, hw⟩ | ⟨w, hw, ⟨rfl, hB⟩ | ⟨rfl, hB, hR⟩⟩
    · exact ⟨.unsupportedWordWidth, rfl, exec_build_of_width hb (Width.ofField_eq_none.2 hw)⟩
    · exact ⟨.keyTooLong, rfl, exec_build_of_keyTooLong hb (Width.ofField_eq_some.2 hw) hB⟩
    · exact ⟨.roundsUnsupported, rfl, exec_build_of_rounds hb (Width.ofField_eq_some.2 hw) hB hR⟩
  obtain ⟨c, rfl, hc⟩ := fails
  refine ⟨s.recordError c 1, hc, ?_, rfl, rfl, rfl, rfl, rfl⟩
  calc (busReadResult 0x020 8 (s.recordError c 1)).1
    _ = (s.recordError c 1).statusWord := congrArg Prod.fst (busReadResult_offset .status _)
    _ = _ := State.statusWord_recordError hb c 1

/-- Settles O11: the recorded error of an idle engine, and the dropped command of a busy one. -/
theorem blockCommandWithoutContext : Obligations.BlockCommandWithoutContext := by
  intro i s hi
  refine ⟨fun hb hv => ?_, fun hb => ?_⟩
  · have records : exec i s = .next (s.recordError .noContext i.op) := by
      rcases hi with rfl | rfl
      · exact exec_encrypt_of_invalid hb hv
      · exact exec_decrypt_of_invalid hb hv
    exact ⟨_, records, rfl, rfl, rfl, rfl, busy_eq_false.1 hb⟩
  · have notNop : i ≠ .nop := by rcases hi with rfl | rfl <;> decide
    exact ⟨_, exec_of_busy notNop hb, rfl, rfl, rfl⟩

/-- On an idle engine every command but NOP, accepted or failed, leaves its OP in LAST_OP (10_state.md R26). -/
theorem exec_lastOp {i : Instr} {s : State} (hb : s.busy = false) (hi : i ≠ .nop) :
    ∃ t, exec i s = .next t ∧ t.lastOp = i.op := by
  cases i with
  | nop => exact absurd rfl hi
  | build =>
    cases hw : Width.ofField s.cfgW with
    | none => exact ⟨_, exec_build_of_width hb hw, rfl⟩
    | some w =>
      rcases lt_or_ge Config.keyMax s.cfgB.toNat with hB | hB
      · exact ⟨_, exec_build_of_keyTooLong hb hw hB, rfl⟩
      rcases lt_or_ge s.rMax.toNat s.cfgR.toNat with hR | hR
      · exact ⟨_, exec_build_of_rounds hb hw hB hR, rfl⟩
      · exact ⟨_, exec_build_of_legal hb ⟨hw, hB, hR⟩, rfl⟩
  | encrypt =>
    cases hv : s.valid with
    | true => exact ⟨_, exec_encrypt_of_valid hb hv, rfl⟩
    | false => exact ⟨_, exec_encrypt_of_invalid hb hv, rfl⟩
  | decrypt =>
    cases hv : s.valid with
    | true => exact ⟨_, exec_decrypt_of_valid hb hv, rfl⟩
    | false => exact ⟨_, exec_decrypt_of_invalid hb hv, rfl⟩
  | clear => exact ⟨_, exec_clear_of_idle hb, rfl⟩

/-- On an idle engine every non-zero word, a command's or not, leaves its OP field in LAST_OP (10_state.md R26). -/
theorem acceptWord_lastOp {cw : Word} {s t : State} (hb : s.busy = false) (h0 : cw ≠ 0)
    (h : acceptWord cw s = .next t) : t.lastOp = opField cw := by
  by_cases illegal : resField cw ≠ 0 ∨ 5 ≤ (opField cw).toNat
  · obtain rfl := Host.Outcome.next.inj (h.symm.trans (acceptWord_of_illegal hb illegal))
    rfl
  · obtain ⟨i, rfl⟩ := exists_eq_encode illegal
    have notNop : i ≠ .nop := by
      rintro rfl
      exact h0 encode_nop
    obtain ⟨u, hu, hop⟩ := exec_lastOp hb notNop
    rw [acceptWord_encode, hu] at h
    obtain rfl := Host.Outcome.next.inj h
    exact hop.trans (opField_append 0 i.op).symm

/-- Only a failed word leaves an error code, and the code is recorded with some OP (60_exceptions.md R190, R191). -/
theorem CommandEffect.eq_recordError {d : Except DecodeReject Instr} {s t : State} (h : CommandEffect d s t)
    (hb : s.busy = false) (hd : d ≠ .ok .nop) (herr : t.err ≠ .noError) :
    t = s.recordError t.err t.lastOp := by
  cases h with
  | nop hnop => exact absurd hnop hd
  | dropped _ hbusy => simp [hb] at hbusy
  | failed => rfl
  | build | encrypt | decrypt | clear => exact absurd rfl herr

/-- Settles O15: the word failed, and LAST_OP is its OP field. -/
theorem errorRecordingChangesOnlyStatus : Obligations.ErrorRecordingChangesOnlyStatus := by
  intro cw s t hb h0 h herr
  obtain ⟨u, hu, he⟩ := acceptWord_effect cw s
  obtain rfl := Host.Outcome.next.inj (h.symm.trans hu)
  calc t
    _ = s.recordError t.err t.lastOp := he.eq_recordError hb (mt decode_eq_nop_iff.1 h0) herr
    _ = s.recordError t.err (opField cw) := by rw [acceptWord_lastOp hb h0 h]

end Sys2Proof.Machine
end

section
/-! PROOFS. A micro-step of a busy engine never stops, keeps the invariant, and takes one off the micro-steps that remain
(60_exceptions.md R180, 70_reset_and_hazards.md R210). -/

namespace Sys2Proof.Machine

/-! How many micro-steps remain, phase by phase (70_reset_and_hazards.md R210). -/

section
variable {s : State}

theorem State.remaining_of_idle (hp : s.phase = .idle) : s.remaining = 0 := by simp only [State.remaining, hp]

theorem State.remaining_of_ksInit (hp : s.phase = .ksInit) :
    s.remaining = (s.opt.toNat - s.k.toNat) + mixCount s.opt.toNat s.opc.toNat := by simp only [State.remaining, hp]

theorem State.remaining_of_ksMix (hp : s.phase = .ksMix) :
    s.remaining = mixCount s.opt.toNat s.opc.toNat - s.k.toNat := by simp only [State.remaining, hp]

theorem State.remaining_of_encPre (hp : s.phase = .encPre) : s.remaining = 1 + s.opr.toNat := by
  simp only [State.remaining, hp]

theorem State.remaining_of_encRound (hp : s.phase = .encRound) : s.remaining = s.opr.toNat - s.k.toNat + 1 := by
  simp only [State.remaining, hp]

theorem State.remaining_of_decRound (hp : s.phase = .decRound) : s.remaining = s.k.toNat + 1 := by
  simp only [State.remaining, hp]

theorem State.remaining_of_decPost (hp : s.phase = .decPost) : s.remaining = 1 := by simp only [State.remaining, hp]

end

/-! Words of the width in the tables. -/

/-- A write of a word of the width makes its own entry fit; the others must fit already. -/
theorem Memory.fits_write {m : Memory} (hm : m.wf = true) {n bits a : Nat} {v : Word} (hv : v.toNat < 2 ^ bits)
    (h : ∀ i, i < n → i ≠ a → (m.read i).toNat < 2 ^ bits) : (m.write a v).fits n bits := by
  intro i hi
  rw [Memory.read_write hm]
  split
  case isTrue => exact hv
  case isFalse ne => exact h i hi ne

theorem ksInitValue_lt (w : Width) (s : State) : (ksInitValue w s).toNat < 2 ^ w.bits := by
  unfold ksInitValue
  split
  · exact Width.magicP_lt w
  · exact addW_lt w _ _

theorem mixA_lt (w : Width) (x a b : Word) : (mixA w x a b).toNat < 2 ^ w.bits := rotlW_lt w (addW_lt w _ _) 3

theorem mixB_lt (w : Width) (x a b : Word) : (mixB w x a b).toNat < 2 ^ w.bits := rotlW_lt w (addW_lt w _ _) _

/-- The state t has the invariant and is one micro-step nearer to the end of the command than s. -/
structure Progress (s t : State) : Prop where
  inv : t.Inv
  count : t.remaining + 1 = s.remaining

/-! The phases of a BUILD (41_key_schedule.md R133, R134). -/

section
variable {s : State} {w : Width} (hi : s.Inv) (hw : Width.ofField s.opw = some w)

section
variable (hp : s.phase = .ksInit)
include hi hp

theorem ksInitNext_tablesOk (w : Width) : (ksInitNext w s).tablesOk := by
  obtain ⟨hl, hk, _⟩ := hi.ksInit hp
  obtain ⟨hs, hL, hkey, hsIn, hLIn, hkeyIn⟩ := hi.tables
  have inTable : s.k.toNat < Config.sMax s.rMax := Nat.lt_of_lt_of_le hk hl.sized.opt_le_sMax
  exact ⟨Memory.wf_write hs _ _, hL, hkey, Memory.within_write hsIn inTable _, hLIn, hkeyIn⟩

include hw

/-- After step K the entries 0 to K are words of the width. -/
theorem ksInitNext_fits : (ksInitNext w s).sTab.fits (s.k.toNat + 1) s.opw.toNat := by
  obtain ⟨_, _, hfits⟩ := hi.ksInit hp
  obtain ⟨hs, _⟩ := hi.tables
  have value : (ksInitValue w s).toNat < 2 ^ s.opw.toNat := Width.ofField_eq_some.1 hw ▸ ksInitValue_lt w s
  exact Memory.fits_write hs value fun i hlt hne => hfits i (by omega)

/-- KS_INIT goes on while entries are left to write. -/
theorem progress_ksInitNext (more : s.k.toNat + 1 < s.opt.toNat) : Progress s (ksInitNext w s) := by
  obtain ⟨hl, hk, _⟩ := hi.ksInit hp
  have ⟨_, _, _, _, _, noContext, _⟩ := hl
  have fits := ksInitNext_fits hi hw hp
  have next : (ksInitNext w s).k.toNat = s.k.toNat + 1 := toNat_add_one hk s.opt.isLt
  have same : (ksInitNext w s).phase = .ksInit := hp
  constructor
  · constructor
    case param => exact hi.param
    case tables => exact ksInitNext_tablesOk hi hp w
    case noContext => exact hi.noContext
    case context => exact fun held => absurd (noContext.symm.trans held) nofun
    case running => exact fun _ => hi.running (by simp [hp])
    case ksInit => exact fun _ => ⟨hl, next.symm ▸ more, next.symm ▸ fits⟩
    all_goals simp [same]
  · rw [State.remaining_of_ksInit hp, State.remaining_of_ksInit same, next]
    change s.opt.toNat - (s.k.toNat + 1) + mixCount s.opt.toNat s.opc.toNat + 1 = _
    omega

/-- With the table written, the mixing starts. -/
theorem progress_startMix (last : s.k.toNat + 1 = s.opt.toNat) : Progress s (startMix (ksInitNext w s)) := by
  obtain ⟨hl, _⟩ := hi.ksInit hp
  have ⟨_, _, _, hc, _, noContext, _⟩ := hl
  have fits := ksInitNext_fits hi hw hp
  have passes : 0 < mixCount s.opt.toNat s.opc.toNat := Nat.lt_of_lt_of_le hl.sized.opt_pos (le_mixCount _ _)
  have zeroFits : (0 : Word).toNat < 2 ^ s.opw.toNat := Nat.two_pow_pos _
  refine ⟨{
    param := hi.param, tables := ksInitNext_tablesOk hi hp w, noContext := hi.noContext
    context := fun held => absurd (noContext.symm.trans held) nofun
    running := fun _ => hi.running (by simp [hp])
    ksMix := fun _ => ⟨hl, passes, hl.sized.opt_pos, hc, last ▸ fits, zeroFits, zeroFits⟩
    idleWords := nofun, ksInit := nofun, encPre := nofun, encRound := nofun, decRound := nofun, decPost := nofun }, ?_⟩
  rw [State.remaining_of_ksInit hp, State.remaining_of_ksMix (startMix_phase _)]
  change mixCount s.opt.toNat s.opc.toNat - 0 + 1 = _
  omega

theorem ksInit_progress : ∃ t, microStep s = .next t ∧ Progress s t := by
  obtain ⟨hl, hk, _⟩ := hi.ksInit hp
  refine ⟨_, microStep_ksInit hp hw hl.sized hk, ?_⟩
  split
  case isTrue last => exact progress_startMix hi hw hp last
  case isFalse more => exact progress_ksInitNext hi hw hp (Nat.lt_of_le_of_ne hk more)

end

section
variable (hp : s.phase = .ksMix)
include hi hw hp

/-- A pass through the mixing loop keeps what the invariant says of the tables and words in KS_MIX. -/
theorem ksMixNext_keeps : (ksMixNext w s).tablesOk ∧ (ksMixNext w s).buildLatched ∧
    (ksMixNext w s).sTab.fits s.opt.toNat s.opw.toNat ∧ (ksMixNext w s).wordsFit s.opw.toNat := by
  obtain ⟨hl, _, hwi, hwj, hfits, _⟩ := hi.ksMix hp
  have ⟨hsome, hr, ht, hc, hc', hv, hop, hLfits⟩ := hl
  obtain ⟨hs, hL, hkey, hsIn, hLIn, hkeyIn⟩ := hi.tables
  have ha : (ksMixNext w s).wa.toNat < 2 ^ s.opw.toNat := Width.ofField_eq_some.1 hw ▸ mixA_lt w _ _ _
  have hb : (ksMixNext w s).wb.toNat < 2 ^ s.opw.toNat := Width.ofField_eq_some.1 hw ▸ mixB_lt w _ _ _
  refine ⟨⟨Memory.wf_write hs _ _, Memory.wf_write hL _ _, hkey, ?_, ?_, hkeyIn⟩,
    ⟨hsome, hr, ht, hc, hc', hv, hop, ?_⟩, ?_, ha, hb⟩
  · exact Memory.within_write hsIn (Nat.lt_of_lt_of_le hwi hl.sized.opt_le_sMax) _
  · exact Memory.within_write hLIn (Nat.lt_of_lt_of_le hwj hc') _
  · exact Memory.fits_write hL hb fun i hlt _ => hLfits i hlt
  · exact Memory.fits_write hs ha fun i hlt _ => hfits i hlt

/-- KS_MIX goes on while passes are left. -/
theorem progress_ksMixNext (more : s.k.toNat + 1 < mixCount s.opt.toNat s.opc.toNat) :
    Progress s (ksMixNext w s) := by
  obtain ⟨hl, hk, _⟩ := hi.ksMix hp
  have ⟨_, _, _, hc, _, noContext, _⟩ := hl
  obtain ⟨tables, latched, fits, words⟩ := ksMixNext_keeps hi hw hp
  have next : (ksMixNext w s).k.toNat = s.k.toNat + 1 := toNat_add_one hk hl.sized.mixCount_lt
  have nextI : (ksMixNext w s).wi.toNat < s.opt.toNat :=
    Nat.lt_of_le_of_lt (Nat.mod_le _ _) (Nat.mod_lt _ hl.sized.opt_pos)
  have nextJ : (ksMixNext w s).wj.toNat < s.opc.toNat := Nat.lt_of_le_of_lt (Nat.mod_le _ _) (Nat.mod_lt _ hc)
  have same : (ksMixNext w s).phase = .ksMix := hp
  constructor
  · constructor
    case param => exact hi.param
    case tables => exact tables
    case noContext => exact hi.noContext
    case context => exact fun held => absurd (noContext.symm.trans held) nofun
    case running => exact fun _ => hi.running (by simp [hp])
    case ksMix => exact fun _ => ⟨latched, next.symm ▸ more, nextI, nextJ, fits, words⟩
    all_goals simp [same]
  · rw [State.remaining_of_ksMix hp, State.remaining_of_ksMix same, next]
    change mixCount s.opt.toNat s.opc.toNat - (s.k.toNat + 1) + 1 = _
    omega

/-- The last pass makes the table the context, with WA and WB words of its width (10_state.md R43). -/
theorem progress_finishBuild (last : s.k.toNat + 1 = mixCount s.opt.toNat s.opc.toNat) :
    Progress s (finishBuild (ksMixNext w s)) := by
  obtain ⟨⟨hsome, hr, ht, _⟩, _⟩ := hi.ksMix hp
  obtain ⟨⟨hs, _, hkey, hsIn, _, hkeyIn⟩, _, fits, words⟩ := ksMixNext_keeps hi hw hp
  refine ⟨{
    param := hi.param, tables := ⟨hs, Memory.wf_zero, hkey, hsIn, Memory.within_zero _, hkeyIn⟩
    noContext := nofun, context := fun _ => ⟨hsome, hr, ht ▸ fits⟩, idleWords := fun _ _ => words
    running := fun busy => absurd rfl busy, ksInit := nofun, ksMix := nofun
    encPre := nofun, encRound := nofun, decRound := nofun, decPost := nofun }, ?_⟩
  rw [State.remaining_of_ksMix hp, State.remaining_of_idle (finishBuild_phase _)]
  omega

theorem ksMix_progress : ∃ t, microStep s = .next t ∧ Progress s t := by
  obtain ⟨hl, hk, hwi, hwj, _⟩ := hi.ksMix hp
  refine ⟨_, microStep_ksMix hp hw hl.sized hk hwi hwj, ?_⟩
  split
  case isTrue last => exact progress_finishBuild hi hw hp last
  case isFalse more => exact progress_ksMixNext hi hw hp (Nat.lt_of_le_of_ne hk more)

end
end

/-! The phases of a block command (42_block_cipher.md R154, R155, R158, R159). -/

theorem State.blockLatched.setWords {s : State} {w : Width} {x : Word × Word} (hl : s.blockLatched)
    (hw : Width.ofField s.opw = some w) (hx : BlockFits w x) : (s.setWords x).blockLatched := by
  obtain ⟨hv, hctxW, hctxR, _⟩ := hl
  exact ⟨hv, hctxW, hctxR, Width.ofField_eq_some.1 hw ▸ hx⟩

section
variable {s : State} {x : Word × Word} (hi : s.Inv) (hl : (s.setWords x).blockLatched)
include hi hl

theorem progress_finishBlock (count : s.remaining = 1) (k : BitVec 32) :
    Progress s (finishBlock { s.setWords x with k := k }) where
  inv := by
    obtain ⟨_, hctxW, _, words⟩ := hl
    exact { hi with
      idleWords := fun _ _ => hctxW ▸ words, running := fun busy => absurd rfl busy, ksInit := nofun, ksMix := nofun
      encPre := nofun, encRound := nofun, decRound := nofun, decPost := nofun }
  count := by rw [State.remaining_of_idle (finishBlock_phase _), count]

variable (hb : s.phase ≠ .idle)
include hb

theorem progress_encRound {p : Phase} (hp : p = .encRound) {k : BitVec 32}
    (bounds : s.lastOp = 2 ∧ 1 ≤ k.toNat ∧ k.toNat ≤ s.opr.toNat) (count : s.opr.toNat - k.toNat + 2 = s.remaining) :
    Progress s { s.setWords x with k := k, phase := p } := by
  subst hp
  refine ⟨{ hi with
    encRound := fun _ => ⟨hl, bounds⟩, running := fun _ => hi.running hb, idleWords := nofun
    ksInit := nofun, ksMix := nofun, encPre := nofun, decRound := nofun, decPost := nofun }, ?_⟩
  rw [State.remaining_of_encRound rfl]
  exact count

theorem progress_decRound {p : Phase} (hp : p = .decRound) {k : BitVec 32}
    (bounds : s.lastOp = 3 ∧ 1 ≤ k.toNat ∧ k.toNat ≤ s.opr.toNat) (count : k.toNat + 2 = s.remaining) :
    Progress s { s.setWords x with k := k, phase := p } := by
  subst hp
  refine ⟨{ hi with
    decRound := fun _ => ⟨hl, bounds⟩, running := fun _ => hi.running hb, idleWords := nofun
    ksInit := nofun, ksMix := nofun, encPre := nofun, encRound := nofun, decPost := nofun }, ?_⟩
  rw [State.remaining_of_decRound rfl]
  exact count

theorem progress_decPost (hop : s.lastOp = 3) (count : s.remaining = 2) :
    Progress s { s.setWords x with phase := .decPost } where
  inv := { hi with
    decPost := fun _ => ⟨hl, hop⟩, running := fun _ => hi.running hb, idleWords := nofun
    ksInit := nofun, ksMix := nofun, encPre := nofun, encRound := nofun, decRound := nofun }
  count := by rw [State.remaining_of_decPost rfl, count]

end

section
variable {s : State} {w : Width} (hi : s.Inv) (hw : Width.ofField s.opw = some w)
include hi hw

theorem encPre_progress (hp : s.phase = .encPre) : ∃ t, microStep s = .next t ∧ Progress s t := by
  obtain ⟨hl, hop⟩ := hi.encPre hp
  have latched := hl.setWords hw (whiten_fits w s.sTab.read (s.wa, s.wb))
  have remaining := State.remaining_of_encPre hp
  refine ⟨_, microStep_encPre hw hp, ?_⟩
  split
  case isTrue zero => exact progress_finishBlock hi latched (by omega) 1
  case isFalse rounds =>
    have one : (1 : BitVec 32).toNat = 1 := rfl
    exact progress_encRound hi latched (by simp [hp]) rfl ⟨hop, by omega⟩ (by omega)

theorem encRound_progress (hp : s.phase = .encRound) : ∃ t, microStep s = .next t ∧ Progress s t := by
  obtain ⟨hl, hop, _, hk⟩ := hi.encRound hp
  have latched := hl.setWords hw (encryptRound_fits w s.sTab.read s.k.toNat (s.wa, s.wb))
  have remaining := State.remaining_of_encRound hp
  refine ⟨_, microStep_encRound hw hi hp, ?_⟩
  split
  case isTrue last =>
    rw [last] at remaining
    exact progress_finishBlock hi latched (by omega) s.k
  case isFalse more =>
    have hlt : s.k.toNat < s.opr.toNat := Nat.lt_of_le_of_ne hk (mt BitVec.eq_of_toNat_eq more)
    have next : (s.k + 1).toNat = s.k.toNat + 1 := toNat_add_one hlt s.opr.isLt
    exact progress_encRound hi latched (by simp [hp]) hp ⟨hop, by omega⟩ (by omega)

theorem decRound_progress (hp : s.phase = .decRound) : ∃ t, microStep s = .next t ∧ Progress s t := by
  obtain ⟨hl, hop, h1, hk⟩ := hi.decRound hp
  have ⟨_, _, _, words⟩ := hl
  rw [Width.ofField_eq_some.1 hw] at words
  have latched := hl.setWords hw (decryptRound_fits (tab := s.sTab.read) (i := s.k.toNat) (x := (s.wa, s.wb)) words)
  have remaining := State.remaining_of_decRound hp
  refine ⟨_, microStep_decRound hw hi hp, ?_⟩
  split
  case isTrue last => exact progress_decPost hi latched (by simp [hp]) hop (by omega)
  case isFalse more =>
    have next : (s.k - 1).toNat = s.k.toNat - 1 := BitVec.toNat_sub_of_le (y := 1) h1
    exact progress_decRound hi latched (by simp [hp]) hp ⟨hop, by omega⟩ (by omega)

theorem decPost_progress (hp : s.phase = .decPost) : ∃ t, microStep s = .next t ∧ Progress s t := by
  obtain ⟨hl, _⟩ := hi.decPost hp
  have fits : BlockFits w (unwhiten w s.sTab.read (s.wa, s.wb)) := ⟨subW_lt w _ _, subW_lt w _ _⟩
  exact ⟨_, microStep_decPost hw hp,
    progress_finishBlock hi (hl.setWords hw fits) (State.remaining_of_decPost hp) s.k⟩

end

/-- A command in progress works at one of the three widths (10_state.md R37). -/
theorem State.Inv.width {s : State} (hi : s.Inv) (hb : s.phase ≠ .idle) : ∃ w, Width.ofField s.opw = some w := by
  have ofContext (hl : s.blockLatched) : ∃ w, Width.ofField s.opw = some w := by
    obtain ⟨hv, hopw, _⟩ := hl
    exact Option.isSome_iff_exists.1 (hopw ▸ (hi.context hv).1)
  cases hp : s.phase with
  | idle => exact absurd hp hb
  | ksInit => exact Option.isSome_iff_exists.1 (hi.ksInit hp).1.1
  | ksMix => exact Option.isSome_iff_exists.1 (hi.ksMix hp).1.1
  | encPre => exact ofContext (hi.encPre hp).1
  | encRound => exact ofContext (hi.encRound hp).1
  | decRound => exact ofContext (hi.decRound hp).1
  | decPost => exact ofContext (hi.decPost hp).1

/-- The Engine never stops in a command (60_exceptions.md R180), keeps the invariant, and nears the end by one step. -/
theorem microStep_progress {s : State} (hi : s.Inv) (hb : s.phase ≠ .idle) :
    ∃ t, microStep s = .next t ∧ Progress s t := by
  obtain ⟨w, hw⟩ := hi.width hb
  cases hp : s.phase with
  | idle => exact absurd hp hb
  | ksInit => exact ksInit_progress hi hw hp
  | ksMix => exact ksMix_progress hi hw hp
  | encPre => exact encPre_progress hi hw hp
  | encRound => exact encRound_progress hi hw hp
  | decRound => exact decRound_progress hi hw hp
  | decPost => exact decPost_progress hi hw hp

end Sys2Proof.Machine
end

section
/-! PROOFS. The micro-step count of every command (70_reset_and_hazards.md R210). -/

namespace Sys2Proof.Machine

/-- A command in progress ends after exactly the steps that remain. -/
theorem runsTo_idle {n : Nat} {s : State} (hi : s.Inv) (hn : s.remaining = n) :
    ∃ t, RunsTo n s t ∧ t.phase = .idle := by
  induction n generalizing s with
  | zero =>
    refine ⟨s, .zero s, ?_⟩
    by_contra hb
    obtain ⟨t, _, h⟩ := microStep_progress hi hb
    have := h.count
    omega
  | succ n ih =>
    have hb : s.phase ≠ .idle := fun hp => by simp [State.remaining_of_idle hp] at hn
    obtain ⟨t, ht, h⟩ := microStep_progress hi hb
    obtain ⟨u, run, idle⟩ := ih h.inv (Nat.succ_inj.1 (h.count.trans hn))
    exact ⟨u, Nat.add_comm 1 n ▸ (RunsTo.one hb ht).trans run, idle⟩

/-- Only an accepted BUILD, ENCRYPT or DECRYPT changes the number of micro-steps that remain. -/
theorem CommandEffect.remaining_eq {d : Except DecodeReject Instr} {s t : State} (h : CommandEffect d s t) :
    t.remaining = s.remaining ∨
      (s.busy = false ∧ t.err = .noError ∧ (d = .ok .build ∨ d = .ok .encrypt ∨ d = .ok .decrypt)) := by
  cases h with
  | nop | dropped | failed | clear => exact .inl rfl
  | build hd hb => exact .inr ⟨hb, rfl, .inl hd⟩
  | encrypt hd hb => exact .inr ⟨hb, rfl, .inr (.inl hd)⟩
  | decrypt hd hb => exact .inr ⟨hb, rfl, .inr (.inr hd)⟩

theorem exec_remaining_eq {i : Instr} {s t : State} (h : exec i s = .next t) :
    t.remaining = s.remaining ∨
      (s.busy = false ∧ t.err = .noError ∧ (i = .build ∨ i = .encrypt ∨ i = .decrypt)) := by
  obtain ⟨u, hu, he⟩ := exec_effect i s
  obtain rfl := Host.Outcome.next.inj (h.symm.trans hu)
  simpa only [Except.ok.injEq] using he.remaining_eq

/-- Settles O56: the run of `runsTo_idle`, the count each accepted command starts with, and that no other word changes the
count. -/
theorem everyCommandEndsAfterItsStepCount : Obligations.EveryCommandEndsAfterItsStepCount := by
  refine ⟨fun s hi => ?_, fun s t w hb hbits hB hR h => ?_, fun s t hb hv h => ?_, fun s t hb hv h => ?_,
    fun i s t hni h => ?_, fun i s t hb h herr => ?_, fun i s t hb h => ?_⟩
  · obtain ⟨t, ⟨run, busy⟩, idle⟩ := runsTo_idle hi rfl
    exact ⟨t, run, idle, busy⟩
  · have hl : s.buildLegal w := ⟨Width.ofField_eq_some.2 hbits, hB, hR⟩
    obtain rfl := Host.Outcome.next.inj (h.symm.trans (exec_build_of_legal hb hl))
    rw [State.remaining_of_ksInit rfl, startBuild_opt_toNat hl, startBuild_opc_toNat hl]
    rfl
  · obtain rfl := Host.Outcome.next.inj (h.symm.trans (exec_encrypt_of_valid hb hv))
    rfl
  · obtain rfl := Host.Outcome.next.inj (h.symm.trans (exec_decrypt_of_valid hb hv))
    split
    case isTrue zero => rw [State.remaining_of_decPost rfl, zero]
    case isFalse => rw [State.remaining_of_decRound rfl]
  · rcases exec_remaining_eq h with same | ⟨_, _, started⟩
    · exact same
    · rcases hni with rfl | rfl <;> simp at started
  · rcases exec_remaining_eq h with same | ⟨_, noErr, _⟩
    · rw [same, State.remaining_of_idle (busy_eq_false.1 hb)]
    · exact absurd noErr herr
  · rcases exec_remaining_eq h with same | ⟨idle, _⟩
    · exact same
    · simp [hb] at idle

end Sys2Proof.Machine
end

section
/-! PROOFS. Host accesses and the running command (70_reset_and_hazards.md R206): while BUSY = 1 a Host step leaves the part
of the state the Engine works on, and a micro-step works on that part alone. -/

namespace Sys2Proof.Machine

/-- Every register the Host writes lies outside the Engine's part. -/
theorem RegisterEffect.enginePart_eq {s t : State} (h : RegisterEffect s t) : t.enginePart = s.enginePart := by
  cases h <;> rfl

/-- A busy engine takes no command: at most OVERRUN changes (43_control.md R173). -/
theorem CommandEffect.enginePart_eq {d : Except DecodeReject Instr} {s t : State} (h : CommandEffect d s t)
    (hb : s.busy = true) : t.enginePart = s.enginePart := by
  cases h with
  | nop | dropped => rfl
  | failed _ _ hi | build _ hi | encrypt _ hi | decrypt _ hi | clear _ hi => simp [hb] at hi

theorem hostStep_enginePart_eq {s t : State} (hb : s.busy = true) (h : hostStep s = .next t) :
    t.enginePart = s.enginePart := by
  rcases hostStep_effect s with ⟨_, he⟩ | ⟨p, r, u, he, hu⟩ | ⟨cw, rest, u, _, _, he, hu⟩
  all_goals obtain rfl := Host.Outcome.next.inj (h.symm.trans he)
  · rfl
  · exact hu.enginePart_eq
  · exact hu.enginePart_eq hb

@[simp] theorem State.enginePart_phase (s : State) : s.enginePart.phase = s.phase := rfl
@[simp] theorem State.enginePart_opw (s : State) : s.enginePart.opw = s.opw := rfl

/-- The step f reads and writes the Engine's part alone. -/
def OnEnginePart (f : State → Result) : Prop := ∀ s, f s.enginePart = mapNext State.enginePart (f s)

theorem atWidth_onEnginePart {f : Width → State → Result} (h : ∀ w, OnEnginePart (f w)) : OnEnginePart (atWidth f) := by
  intro s
  cases hw : Width.ofField s.opw with
  | some w => rw [atWidth_of hw, atWidth_of (s := s.enginePart) hw, h w s]
  | none => simp [atWidth, hw, mapNext]

theorem ksInitStep_onEnginePart (w : Width) : OnEnginePart (ksInitStep w) := by
  intro s
  simp only [ksInitStep, apply_ite (mapNext State.enginePart), mapNext_next, apply_ite State.enginePart]
  rfl

theorem ksMixStep_onEnginePart (w : Width) : OnEnginePart (ksMixStep w) := by
  intro s
  simp only [ksMixStep, apply_ite (mapNext State.enginePart), mapNext_next, apply_ite State.enginePart]
  rfl

theorem encPreStep_onEnginePart (w : Width) : OnEnginePart (encPreStep w) := by
  intro s
  simp only [encPreStep, mapNext_next, apply_ite State.enginePart]
  rfl

theorem encRoundStep_onEnginePart (w : Width) : OnEnginePart (encRoundStep w) := by
  intro s
  simp only [encRoundStep, apply_ite (mapNext State.enginePart), mapNext_next, apply_ite State.enginePart]
  rfl

theorem decRoundStep_onEnginePart (w : Width) : OnEnginePart (decRoundStep w) := by
  intro s
  simp only [decRoundStep, apply_ite (mapNext State.enginePart), mapNext_next, apply_ite State.enginePart]
  rfl

theorem decPostStep_onEnginePart (w : Width) : OnEnginePart (decPostStep w) := fun _ => rfl

theorem microStep_onEnginePart : OnEnginePart microStep := by
  intro s
  unfold microStep
  rw [State.enginePart_phase]
  cases s.phase with
  | idle => rfl
  | ksInit => exact atWidth_onEnginePart ksInitStep_onEnginePart s
  | ksMix => exact atWidth_onEnginePart ksMixStep_onEnginePart s
  | encPre => exact atWidth_onEnginePart encPreStep_onEnginePart s
  | encRound => exact atWidth_onEnginePart encRoundStep_onEnginePart s
  | decRound => exact atWidth_onEnginePart decRoundStep_onEnginePart s
  | decPost => exact atWidth_onEnginePart decPostStep_onEnginePart s

/-- Settles O54: a Host step by what it can do, a micro-step by its phase. -/
theorem hostAccessesLeaveTheRunningCommand : Obligations.HostAccessesLeaveTheRunningCommand :=
  ⟨fun _ _ hb h => hostStep_enginePart_eq hb h, microStep_onEnginePart⟩

end Sys2Proof.Machine
end

section
/-! PROOFS. The context as the Host sees it around a BUILD (70_reset_and_hazards.md R208). -/

namespace Sys2Proof.Machine

/-- VALID is bit 1 of STATUS (10_state.md R26). -/
theorem State.statusWord_valid (s : State) : s.statusWord.getLsbD 1 = s.valid := by
  simp only [State.statusWord, BitVec.getLsbD_append]
  simp

/-- While a BUILD runs no context is held (41_key_schedule.md R131). -/
theorem State.Inv.valid_of_building {s : State} (hi : s.Inv) (hp : s.phase = .ksInit ∨ s.phase = .ksMix) :
    s.valid = false := by
  by_contra hv
  obtain ⟨notInit, notMix⟩ := hi.not_building (Bool.eq_true_of_not_eq_false hv)
  exact hp.elim notInit notMix

/-- CTX of no context reads 0 (10_state.md R27). -/
theorem State.ctxWord_eq_zero {s : State} (h : s.ctxW = 0 ∧ s.ctxR = 0) : s.ctxWord = 0 := by
  obtain ⟨hW, hR⟩ := h
  rw [State.ctxWord, hW, hR]
  rfl

/-- A BUILD of an idle engine starts, or records an error. -/
theorem exec_build_cases {s t : State} (hb : s.busy = false) (h : exec .build s = .next t) :
    t.phase = .ksInit ∨ ∃ c op, c ≠ .noError ∧ t = s.recordError c op := by
  obtain ⟨u, hu, he⟩ := exec_effect .build s
  obtain rfl := Host.Outcome.next.inj (h.symm.trans hu)
  cases he with
  | build => exact .inl rfl
  | failed _ _ _ c hc op => exact .inr ⟨c, op, hc, rfl⟩
  | dropped _ busy => simp [hb] at busy
  | nop hd | encrypt hd | decrypt hd | clear hd => simp at hd

/-- Settles O59: the three reads of an engine that holds no context, and the two ways a BUILD can go. -/
theorem contextIsHiddenDuringBuild : Obligations.ContextIsHiddenDuringBuild := by
  refine ⟨fun s hi hp => ?_, fun s t hb h idle => ?_⟩
  · have hv := hi.valid_of_building hp
    have status := busReadResult_offset .status s
    have ctx := busReadResult_offset .ctx s
    have sData := busReadResult_offset .sData s
    simp only [readReg, State.ctxWord_eq_zero (hi.noContext hv), State.sData_of_invalid hv] at status ctx sData
    exact ⟨(congrArg (·.1.getLsbD 1) status).trans (s.statusWord_valid.trans hv), ctx, sData⟩
  · rcases exec_build_cases hb h with started | ⟨c, op, hc, rfl⟩
    · simp [started] at idle
    · exact ⟨rfl, rfl, rfl, rfl, hc⟩

end Sys2Proof.Machine
end

section
/-! PROOFS. The reset input as one step (70_reset_and_hazards.md R200). -/

namespace Sys2Proof.Machine

/-- With reset next, the step is the reset input (20_memory.md R73). -/
theorem step_reset {s : State} {sch : List Turn} (h : s.schedule = .reset :: sch) :
    step s = .next (resetInput { s with schedule := sch }) := by
  simp [step_turn, State.turn, h, takeTurn]

/-- Settles O28: each register holds its reset value, whatever the state before. -/
theorem resetInputStep : Obligations.ResetInputStep := by
  intro s sch h
  have cfg : State.reset.cfgWord = 0x0000000C00001020 := by decide
  have status : State.reset.statusWord = 0 := by decide
  have ctx : State.reset.ctxWord = 0 := by decide
  exact ⟨_, step_reset h, rfl, cfg, status, ctx, rfl, rfl, rfl, rfl, rfl, fun _ => rfl, rfl, rfl, rfl⟩

end Sys2Proof.Machine
end

section
/-! PROOFS. The invariant of the machine (60_exceptions.md R180): reset meets it, each kind of step keeps it, and from it
every step answers a next state. -/

namespace Sys2Proof.Machine

/-- Of an idle engine the invariant says nothing about a command in progress. -/
theorem State.Inv.of_idle {s : State} (hp : s.phase = .idle) (param : Config.wellFormed s.rMax = true)
    (tables : s.tablesOk) (noContext : s.valid = false → s.ctxW = 0 ∧ s.ctxR = 0)
    (context : s.valid = true → (Width.ofField s.ctxW).isSome = true ∧ s.ctxR.toNat ≤ s.rMax.toNat ∧
      s.sTab.fits (tableLength s.ctxR.toNat) s.ctxW.toNat)
    (words : s.valid = true → s.wordsFit s.ctxW.toNat) : s.Inv := by
  have absent {p : Phase} (hne : p ≠ .idle) : s.phase ≠ p := fun e => hne (e.symm.trans hp)
  exact {
    param, tables, noContext, context, idleWords := fun _ => words, running := absurd hp
    ksInit := fun e => absurd e (absent nofun), ksMix := fun e => absurd e (absent nofun)
    encPre := fun e => absurd e (absent nofun), encRound := fun e => absurd e (absent nofun)
    decRound := fun e => absurd e (absent nofun), decPost := fun e => absurd e (absent nofun) }

/-- After reset the engine is idle without a context, with empty tables. -/
theorem resetWith_inv {rMax : BitVec 16} (h : Config.wellFormed rMax = true) : (State.resetWith rMax).Inv :=
  .of_idle rfl h (resetWith_tablesOk rMax) (fun _ => ⟨rfl, rfl⟩) nofun nofun

/-- The invariant says nothing of the agents' own fields. -/
theorem State.Inv.agents {s : State} (hi : s.Inv) (p : List HostOp) (sch : List Turn) (r : Option BusResult) :
    ({ s with program := p, schedule := sch, busResult := r } : State).Inv := { hi with }

/-- A register write keeps KEY canonical and in bounds, and no other part of the invariant speaks of what it stores. -/
theorem RegisterEffect.inv {s t : State} (h : RegisterEffect s t) (hi : s.Inv) : t.Inv := by
  cases h with
  | nothing => exact hi
  | cfg | aIn | bIn | sIndex => exact { hi with }
  | key q d =>
    obtain ⟨hs, hL, hkey, hsIn, hLIn, hkeyIn⟩ := hi.tables
    exact { hi with
      tables := ⟨hs, hL, Memory.wf_write hkey _ _, hsIn, hLIn, Memory.within_write hkeyIn q.isLt _⟩ }

/-- A legal BUILD latches what the invariant asks of KS_INIT, with no entry of S written yet. -/
theorem startBuild_inv {s : State} {w : Width} (hi : s.Inv) (hl : s.buildLegal w) : (startBuild w s).Inv := by
  have ⟨hw, hB, _⟩ := hl
  obtain ⟨hs, hL, hkey, hsIn, hLIn, hkeyIn⟩ := hi.tables
  have hz := startBuild_sized hl
  have hwidth : (Width.ofField s.cfgW).isSome = true := hw ▸ rfl
  have keyFits : (startBuild w s).lArr.fits (startBuild w s).opc.toNat s.cfgW.toNat := by
    intro j hj
    rw [startBuild_opc_toNat hl] at hj
    rw [startBuild_lArr_read w hL hj, keyWords_getD_toNat (by simpa using hj), Width.ofField_eq_some.1 hw]
    exact packLE_take_lt w _
  have inArray : 0 + (keyWords w (keyBytes s.key s.cfgB.toNat)).length ≤ Config.lMax := by
    simpa using wordCount_le hB
  exact {
    param := hi.param
    tables := ⟨hs, Memory.wf_writeFrom hL _ _, hkey, hsIn, Memory.within_writeFrom hLIn _ _ inArray, hkeyIn⟩
    noContext := fun _ => ⟨rfl, rfl⟩, context := nofun, running := fun _ => ⟨rfl, rfl⟩
    ksInit := fun _ => ⟨⟨hwidth, hz.rounds, hz.opt_eq, hz.opc_pos, hz.opc_le, rfl, rfl, keyFits⟩, hz.opt_pos, nofun⟩
    idleWords := nofun, ksMix := nofun, encPre := nofun, encRound := nofun, decRound := nofun, decPost := nofun }

theorem lowBits_lt {n : Nat} (h : n ≤ 64) (v : Word) : (lowBits n v).toNat < 2 ^ n := by
  rw [lowBits_toNat h]
  exact Nat.mod_lt _ (Nat.two_pow_pos _)

/-- The latched words of a block command are words of the context's width (42_block_cipher.md R153, R157). -/
theorem State.Inv.latchBlock_blockLatched {s : State} (hi : s.Inv) (hv : s.valid = true) (op : BitVec 4) :
    (latchBlock op s).blockLatched := by
  obtain ⟨w, hw⟩ := Option.isSome_iff_exists.1 (hi.context hv).1
  have inElement : s.ctxW.toNat ≤ 64 := Width.ofField_eq_some.1 hw ▸ w.bits_le
  exact ⟨hv, rfl, rfl, lowBits_lt inElement _, lowBits_lt inElement _⟩

/-- Whatever a command word does, the invariant holds afterwards. -/
theorem CommandEffect.inv {d : Except DecodeReject Instr} {s t : State} (h : CommandEffect d s t) (hi : s.Inv) :
    t.Inv := by
  cases h with
  | nop => exact hi
  | dropped => exact { hi with }
  | failed _ _ hb =>
    have idle := busy_eq_false.1 hb
    exact .of_idle idle hi.param hi.tables hi.noContext hi.context (hi.idleWords idle)
  | build _ _ w hl => exact startBuild_inv hi hl
  | encrypt _ _ hv =>
    exact { hi with
      encPre := fun _ => ⟨hi.latchBlock_blockLatched hv 2, rfl⟩, running := fun _ => ⟨rfl, rfl⟩
      idleWords := nofun, ksInit := nofun, ksMix := nofun, encRound := nofun, decRound := nofun, decPost := nofun }
  | decrypt _ _ hv =>
    have latched := hi.latchBlock_blockLatched hv 3
    by_cases zero : s.ctxR = 0
    · rw [if_pos zero]
      exact { hi with
        decPost := fun _ => ⟨latched, rfl⟩, running := fun _ => ⟨rfl, rfl⟩
        idleWords := nofun, ksInit := nofun, ksMix := nofun, encPre := nofun, encRound := nofun, decRound := nofun }
    · rw [if_neg zero]
      have rounds : 1 ≤ s.ctxR.toNat := Nat.one_le_iff_ne_zero.2 (mt (BitVec.eq_of_toNat_eq (y := 0)) zero)
      exact { hi with
        decRound := fun _ => ⟨latched, rfl, rounds, le_rfl⟩, running := fun _ => ⟨rfl, rfl⟩
        idleWords := nofun, ksInit := nofun, ksMix := nofun, encPre := nofun, encRound := nofun, decPost := nofun }
  | clear _ hb => exact .of_idle (busy_eq_false.1 hb) hi.param (acceptClear_tablesOk s) (fun _ => ⟨rfl, rfl⟩) nofun nofun

theorem microStep_of_idle {s : State} (hp : s.phase = .idle) : microStep s = .next s := by simp only [microStep, hp]

/-- The Engine's turn answers a next state, and the invariant holds there (60_exceptions.md R180). -/
theorem State.Inv.exists_microStep {s : State} (hi : s.Inv) : ∃ t, microStep s = .next t ∧ t.Inv := by
  by_cases hp : s.phase = .idle
  · exact ⟨s, microStep_of_idle hp, hi⟩
  · obtain ⟨t, ht, progress⟩ := microStep_progress hi hp
    exact ⟨t, ht, progress.inv⟩

/-- The Host's turn answers a next state, and the invariant holds there. -/
theorem State.Inv.exists_hostStep {s : State} (hi : s.Inv) : ∃ t, hostStep s = .next t ∧ t.Inv := by
  rcases hostStep_effect s with ⟨_, he⟩ | ⟨p, r, u, he, hu⟩ | ⟨cw, rest, u, _, _, he, hu⟩
  · exact ⟨s, he, hi⟩
  · exact ⟨_, he, (hu.inv (hi.agents p _ _)).agents _ _ _⟩
  · exact ⟨_, he, (hu.inv (hi.agents rest _ _)).agents _ _ _⟩

/-- Every step answers a next state, and the invariant holds there. -/
theorem State.Inv.exists_step {s : State} (hi : s.Inv) : ∃ t, step s = .next t ∧ t.Inv := by
  have later : ({ s with schedule := s.schedule.tail } : State).Inv := hi.agents _ _ _
  rw [step_turn]
  cases s.turn with
  | host => exact later.exists_hostStep
  | engine => exact later.exists_microStep
  | reset => exact ⟨_, rfl, (resetWith_inv hi.param).agents _ _ _⟩

/-- Settles O48: the next state is the one for which `State.Inv.exists_step` gives the invariant. -/
theorem everyStepKeepsTheInvariant : Obligations.EveryStepKeepsTheInvariant := by
  intro s t hi h
  obtain ⟨u, hu, inv⟩ := hi.exists_step
  obtain rfl := Host.Outcome.next.inj (h.symm.trans hu)
  exact inv

/-- Settles O50: by induction on the number of steps, each from a state that meets the invariant. -/
theorem noRunEverStops : Obligations.NoRunEverStops := by
  intro s hi n
  induction n generalizing s with
  | zero => exact ⟨s, rfl⟩
  | succ n ih =>
    obtain ⟨t, ht, inv⟩ := hi.exists_step
    rw [runSteps_succ ht]
    exact ih t inv

/-- After reset nothing is held or in progress, so that the key invariant asks nothing. -/
theorem resetWith_keyInv (rMax : BitVec 16) : (State.resetWith rMax).KeyInv := ⟨nofun, nofun, nofun⟩

/-- Settles O49: reset with any legal R_MAX, and with the default one. -/
theorem resetMeetsTheInvariants : Obligations.ResetMeetsTheInvariants :=
  ⟨fun rMax h => ⟨resetWith_inv (decide_eq_true h), resetWith_keyInv rMax⟩,
    resetWith_inv (by decide), resetWith_keyInv _⟩

end Sys2Proof.Machine
end

section
/-! PROOFS. ENCRYPT and DECRYPT as a whole (42_block_cipher.md R152, R156, R160): the micro-steps from the accepted command
to the completed one, and the words they leave in the outputs. -/

namespace Sys2Proof.Machine

/-- Where a micro-step leads, the invariant holds. -/
theorem State.Inv.of_microStep {s t : State} (hi : s.Inv) (h : microStep s = .next t) : t.Inv := by
  obtain ⟨u, hu, inv⟩ := hi.exists_microStep
  obtain rfl := Host.Outcome.next.inj (h.symm.trans hu)
  exact inv

/-- Where a run of micro-steps leads, the invariant holds. -/
theorem State.Inv.of_microSteps {n : Nat} {s t : State} (hi : s.Inv) (h : microSteps n s = .next t) : t.Inv := by
  induction n generalizing s with
  | zero =>
    cases h
    exact hi
  | succ n ih =>
    obtain ⟨u, hu, inv⟩ := hi.exists_microStep
    rw [microSteps_succ hu] at h
    exact ih inv h

/-- The last of k rounds. -/
theorem encryptRounds_of_pos (w : Width) (tab : Nat → Word) {k : Nat} (hk : 1 ≤ k) (y : Word × Word) :
    encryptRounds w tab k y = encryptRound w tab k (encryptRounds w tab (k - 1) y) := by
  obtain ⟨j, rfl⟩ : ∃ j, k = j + 1 := Nat.exists_eq_add_one.2 hk
  rfl

section
variable {s : State} {w : Width} (hi : s.Inv) (hw : Width.ofField s.opw = some w)
include hi hw

/-- From ENC_ROUND the engine runs the rounds K to r and completes: of the block `y` that K - 1 rounds have taken to WA and
WB, all r rounds come out (42_block_cipher.md R155). -/
theorem runsTo_encryptRounds (hp : s.phase = .encRound) {y : Word × Word}
    (hy : (s.wa, s.wb) = encryptRounds w s.sTab.read (s.k.toNat - 1) y) {n : Nat} (hn : s.k.toNat + n = s.opr.toNat) :
    ∃ k, RunsTo (n + 1) s (finishBlock { s.setWords (encryptRounds w s.sTab.read s.opr.toNat y) with k := k }) := by
  induction n generalizing s with
  | zero =>
    obtain ⟨_, _, first, _⟩ := hi.encRound hp
    have step := microStep_encRound hw hi hp
    rw [if_pos (BitVec.eq_of_toNat_eq hn), hy, ← encryptRounds_of_pos w _ first] at step
    exact ⟨s.k, hn ▸ .one (by simp [hp]) step⟩
  | succ n ih =>
    obtain ⟨_, _, first, _⟩ := hi.encRound hp
    have step := microStep_encRound hw hi hp
    have more : s.k ≠ s.opr := fun last => by rw [last] at hn; omega
    have next : (s.k + 1).toNat = s.k.toNat + 1 := toNat_add_one (by omega) s.opr.isLt
    rw [if_neg more, hy, ← encryptRounds_of_pos w _ first] at step
    obtain ⟨k, run⟩ := ih (hi.of_microStep step) hw hp (by rw [next]; rfl)
      (show (s.k + 1).toNat + n = s.opr.toNat by omega)
    exact ⟨k, Nat.add_comm 1 (n + 1) ▸ (RunsTo.one (by simp [hp]) step).trans run⟩

/-- From DEC_ROUND the engine runs the rounds K to 1, removes the whitening and completes (42_block_cipher.md R158, R159). -/
theorem runsTo_decryptBlock (hp : s.phase = .decRound) {n : Nat} (hn : s.k.toNat = n + 1) :
    ∃ k, RunsTo (n + 2) s
      (finishBlock { s.setWords (decryptBlock w s.sTab.read (n + 1) (s.wa, s.wb)) with k := k }) := by
  induction n generalizing s with
  | zero =>
    have step := microStep_decRound hw hi hp
    rw [if_pos hn, hn] at step
    have last := microStep_decPost
      (s := { s.setWords (decryptRound w s.sTab.read 1 (s.wa, s.wb)) with phase := .decPost }) hw rfl
    exact ⟨s.k, (RunsTo.one (by simp [hp]) step).trans (.one nofun last)⟩
  | succ n ih =>
    have step := microStep_decRound hw hi hp
    have next : (s.k - 1).toNat = s.k.toNat - 1 := BitVec.toNat_sub_of_le (y := 1) (show 1 ≤ s.k.toNat by omega)
    rw [if_neg (by omega), hn] at step
    obtain ⟨k, run⟩ := ih (hi.of_microStep step) hw hp (by rw [next]; omega)
    exact ⟨k, Nat.add_comm 1 (n + 2) ▸ (RunsTo.one (by simp [hp]) step).trans run⟩

/-- From ENC_PRE the engine encrypts WA and WB and completes (42_block_cipher.md R154, R155). -/
theorem runsTo_encryptBlock (hp : s.phase = .encPre) : ∃ k, RunsTo (1 + s.opr.toNat) s
    (finishBlock { s.setWords (encryptBlock w s.sTab.read s.opr.toNat (s.wa, s.wb)) with k := k }) := by
  have busy : s.phase ≠ .idle := by simp [hp]
  have step := microStep_encPre hw hp
  by_cases zero : s.opr.toNat = 0
  · rw [if_pos zero] at step
    rw [zero]
    exact ⟨1, .one busy step⟩
  · rw [if_neg zero] at step
    obtain ⟨k, run⟩ := runsTo_encryptRounds (hi.of_microStep step) hw rfl (y := whiten w s.sTab.read (s.wa, s.wb)) rfl
      (show 1 + (s.opr.toNat - 1) = s.opr.toNat by omega)
    rw [Nat.sub_add_cancel (Nat.one_le_iff_ne_zero.2 zero)] at run
    exact ⟨k, (RunsTo.one busy step).trans run⟩

end

/-- The function a block command computes (42_block_cipher.md R150, R151). -/
def blockFunction (i : Instr) : Width → (Nat → Word) → Nat → Word × Word → Word × Word :=
  if i = .encrypt then encryptBlock else decryptBlock

theorem blockFunction_fits (i : Instr) (w : Width) (tab : Nat → Word) (r : Nat) (x : Word × Word) :
    BlockFits w (blockFunction i w tab r x) := by
  unfold blockFunction
  split
  · exact encryptRounds_fits r (whiten_fits w tab x)
  · exact ⟨subW_lt w _ _, subW_lt w _ _⟩

/-- The words a block command latches (42_block_cipher.md R153, R157). -/
def State.inputBlock (s : State) : Word × Word := (lowBits s.ctxW.toNat s.aIn, lowBits s.ctxW.toNat s.bIn)

/-- The engine after the block command i has come to the words x, with what is left in the counter K. -/
def afterBlock (i : Instr) (x : Word × Word) (k : BitVec 32) (s : State) : State :=
  finishBlock { (latchBlock i.op s).setWords x with k := k }

theorem lowBits_of_lt (w : Width) {v : Word} (h : v.toNat < 2 ^ w.bits) : lowBits w.bits v = v := by
  apply BitVec.eq_of_toNat_eq
  rw [lowBits_toNat w.bits_le, Nat.mod_eq_of_lt h]

/-- Words of the context's width go to the outputs as they are (42_block_cipher.md R160). -/
theorem afterBlock_outputs {i : Instr} {s : State} {w : Width} (hbits : s.ctxW.toNat = w.bits) {x : Word × Word}
    (hx : BlockFits w x) (k : BitVec 32) : (afterBlock i x k s).outputs = x := by
  obtain ⟨ha, hb⟩ := hx
  rw [State.outputs_eq_iff, ← lowBits_of_lt w ha, ← lowBits_of_lt w hb, ← hbits]
  exact ⟨rfl, rfl⟩

theorem State.Inv.of_exec {i : Instr} {s t : State} (hi : s.Inv) (h : exec i s = .next t) : t.Inv := by
  obtain ⟨u, hu, he⟩ := exec_effect i s
  obtain rfl := Host.Outcome.next.inj (h.symm.trans hu)
  exact he.inv hi

/-- A block command of an idle engine takes 1 + r micro-steps to its result (42_block_cipher.md R152, R156, R160). -/
theorem runsTo_block {s : State} {w : Width} (hi : s.Inv) (hb : s.busy = false) (hv : s.valid = true)
    (hbits : s.ctxW.toNat = w.bits) {i : Instr} (hblock : i = .encrypt ∨ i = .decrypt) :
    ∃ s₁ k, exec i s = .next s₁ ∧ RunsTo (1 + s.ctxR.toNat) s₁
      (afterBlock i (blockFunction i w s.sTab.read s.ctxR.toNat s.inputBlock) k s) := by
  have hw : Width.ofField s.ctxW = some w := Width.ofField_eq_some.2 hbits
  rcases hblock with rfl | rfl
  · have accepted := exec_encrypt_of_valid hb hv
    obtain ⟨k, run⟩ := runsTo_encryptBlock (hi.of_exec accepted) hw rfl
    exact ⟨_, k, accepted, run⟩
  · have accepted := exec_decrypt_of_valid hb hv
    cases hr : s.ctxR.toNat with
    | zero =>
      rw [if_pos hr] at accepted
      exact ⟨_, _, accepted, .one nofun (microStep_decPost hw rfl)⟩
    | succ n =>
      rw [if_neg (by omega)] at accepted
      obtain ⟨k, run⟩ := runsTo_decryptBlock (hi.of_exec accepted) hw rfl hr
      exact ⟨_, k, accepted, Nat.add_comm (n + 1) 1 ▸ run⟩

/-- Settles O44: the run of an ENCRYPT, and what it leaves. -/
theorem encryptComputesTheBlock : Obligations.EncryptComputesTheBlock := by
  intro s w hi hb hv hbits
  obtain ⟨s₁, k, accepted, run, busy⟩ := runsTo_block hi hb hv hbits (.inl rfl)
  rw [State.inputBlock, hbits] at run
  exact ⟨s₁, _, accepted, run, busy, rfl, afterBlock_outputs hbits (blockFunction_fits ..) k, rfl, rfl, rfl, rfl, hv,
    rfl, rfl, rfl, rfl, rfl, rfl⟩

/-- Settles O45: the run of a DECRYPT, and what it leaves. -/
theorem decryptComputesTheBlock : Obligations.DecryptComputesTheBlock := by
  intro s w hi hb hv hbits
  obtain ⟨s₁, k, accepted, run⟩ := runsTo_block hi hb hv hbits (.inr rfl)
  rw [State.inputBlock, hbits, Nat.add_comm] at run
  obtain ⟨steps, busy⟩ := run
  exact ⟨s₁, _, accepted, steps, busy, rfl, afterBlock_outputs hbits (blockFunction_fits ..) k, rfl, rfl, rfl, rfl, hv,
    rfl, rfl, rfl, rfl, rfl, rfl⟩

/-- What Encrypt computes, latched again and decrypted, is the block it was given (42_block_cipher.md R161). -/
theorem decryptBlock_lowBits_encryptBlock (w : Width) {tab : Nat → Word} {r : Nat}
    (ht : ∀ i, i < 2 * r + 2 → (tab i).toNat < 2 ^ w.bits) {x y : Word × Word} (hx : BlockFits w x)
    (hy : y = encryptBlock w tab r x) : decryptBlock w tab r (lowBits w.bits y.1, lowBits w.bits y.2) = x := by
  obtain ⟨ha, hb⟩ : BlockFits w y := hy ▸ blockFunction_fits .encrypt w tab r x
  rw [lowBits_of_lt w ha, lowBits_of_lt w hb, hy]
  exact (decryptInvertsEncrypt w r tab x.1 x.2 ht hx.1 hx.2).1

/-- Settles O46: ENCRYPT as in O44, then DECRYPT as in O45 from the state it left, whose table and context are the same. -/
theorem engineDecryptsWhatItEncrypted : Obligations.EngineDecryptsWhatItEncrypted := by
  intro s w hi hb hv hbits
  obtain ⟨s₁, t, encrypts, encryptRun, _, idle, encrypted, _, _, _, _, tValid, tCtxW, tCtxR, tTab, _⟩ :=
    encryptComputesTheBlock s w hi hb hv hbits
  have tInv : ({ t with aIn := t.aOut, bIn := t.bOut } : State).Inv :=
    { (hi.of_exec encrypts).of_microSteps encryptRun with }
  obtain ⟨t₁, u, decrypts, decryptRun, _, uIdle, decrypted, _⟩ :=
    decryptComputesTheBlock _ w tInv (busy_eq_false.2 idle) tValid (tCtxW.symm ▸ hbits)
  simp only [tCtxR, tTab] at decryptRun decrypted
  obtain ⟨_, _, fits⟩ := hi.context hv
  rw [hbits] at fits
  have same := decryptBlock_lowBits_encryptBlock w fits ⟨lowBits_lt w.bits_le _, lowBits_lt w.bits_le _⟩ encrypted
  rw [← decrypted, Prod.mk.injEq] at same
  obtain ⟨haOut, hbOut⟩ := same
  refine ⟨s₁, t, t₁, u, encrypts, encryptRun, decrypts, decryptRun, uIdle, ?_, ?_⟩
  · rw [haOut, lowBits_toNat w.bits_le]
  · rw [hbOut, lowBits_toNat w.bits_le]

end Sys2Proof.Machine
end

section
/-! PROOFS. What each command leaves unchanged (30_encoding.md R93, 10_state.md section 2), the tables that BUILD writes
among it (41_key_schedule.md R131). -/

namespace Sys2Proof.Machine

/-- Settles O16: the frame of each effect a command can have. -/
theorem commandFrame : Obligations.CommandFrame := by
  intro i s t h
  obtain ⟨u, hu, he⟩ := exec_effect i s
  obtain rfl := Host.Outcome.next.inj (h.symm.trans hu)
  cases he with
  | dropped | failed => simp
  | nop hd | build hd | encrypt hd | decrypt hd | clear hd =>
    obtain rfl := Except.ok.inj hd
    simp

/-- Settles O17: an accepted BUILD, whose key words start at entry 0 of L. -/
theorem buildWritesExactlyTheKeyWords : Obligations.BuildWritesExactlyTheKeyWords := by
  intro s t w hb hbits hB hR h
  have hl : s.buildLegal w := ⟨Width.ofField_eq_some.2 hbits, hB, hR⟩
  obtain rfl := Host.Outcome.next.inj (h.symm.trans (exec_build_of_legal hb hl))
  refine ⟨startBuild_opc_toNat hl, rfl, rfl, fun hL a => ?_⟩
  simp [startBuild, Memory.read_writeFrom hL]

/-- Settles O39: both runs are those of `runsTo_build`, and each table is the key schedule of the same key. -/
theorem buildTableDependsOnlyOnKeyAndConfig : Obligations.BuildTableDependsOnlyOnKeyAndConfig := by
  intro s s' w hb hb' hbits hB hR hR' htables htables' hW eB eR hkey
  obtain ⟨hs, hL, _⟩ := htables
  obtain ⟨hs', hL', _⟩ := htables'
  have hl : s.buildLegal w := ⟨Width.ofField_eq_some.2 hbits, hB, hR⟩
  have hl' : s'.buildLegal w := ⟨hW ▸ hl.1, eB ▸ hB, eR ▸ hR'⟩
  obtain ⟨run, _⟩ := runsTo_build hl hs hL rfl rfl
  obtain ⟨run', _⟩ := runsTo_build hl' hs' hL' (congrArg _ (congrArg _ eR)) (congrArg _ (congrArg _ eB))
  refine ⟨_, _, _, _, _, exec_build_of_legal hb hl, exec_build_of_legal hb' hl', run, run', rfl, rfl, hW, eR,
    fun i hi => ?_⟩
  have table := buildAfter_sTab_read w hs hi
  have table' := buildAfter_sTab_read w hs' (eR ▸ hi)
  rw [eR, eB, hkey] at table'
  exact table'.trans table.symm

end Sys2Proof.Machine
end

section
/-! PROOFS. What a micro-step leaves unchanged (41_key_schedule.md R133, R134, 42_block_cipher.md R154 to R159). -/

namespace Sys2Proof.Machine

/-- Everything a micro-step can do: nothing, in the turn of an idle engine; an entry of S, or the last one; a pass through the
mixing loop, or the last one; a round of a block command that goes on; or its completion. -/
inductive MicroEffect (s : State) : State → Prop where
  | nothing (hp : s.phase = .idle) : MicroEffect s s
  | entry (hp : s.phase = .ksInit) (v : Word) :
      MicroEffect s { s with sTab := s.sTab.write s.k.toNat v, k := s.k + 1 }
  | lastEntry (hp : s.phase = .ksInit) (v : Word) :
      MicroEffect s (startMix { s with sTab := s.sTab.write s.k.toNat v, k := s.k + 1 })
  | pass (hp : s.phase = .ksMix) (w : Width) : MicroEffect s (ksMixNext w s)
  | lastPass (hp : s.phase = .ksMix) (w : Width) : MicroEffect s (finishBuild (ksMixNext w s))
  | round (hp : s.phase = .encPre ∨ s.phase = .encRound ∨ s.phase = .decRound) (x : Word × Word) (k : BitVec 32)
      (p : Phase) (next : p = .encRound ∨ p = .decRound ∨ p = .decPost) :
      MicroEffect s { s.setWords x with k := k, phase := p }
  | completion (hp : s.phase = .encPre ∨ s.phase = .encRound ∨ s.phase = .decPost) (x : Word × Word) (k : BitVec 32) :
      MicroEffect s (finishBlock { s.setWords x with k := k })

theorem microStep_effect {s t : State} (h : microStep s = .next t) : MicroEffect s t := by
  rcases microStep_cases h with
    ⟨hp, rfl⟩ | ⟨w, _, ⟨hp, hk⟩ | ⟨hp, hk⟩ | ⟨hp, he⟩ | ⟨hp, he⟩ | ⟨hp, hd⟩ | ⟨hp, hd⟩⟩
  · exact .nothing hp
  · obtain ⟨_, v, _, _, rfl, rfl⟩ := ksInitStep_next hk
    split
    · exact .lastEntry hp v
    · exact .entry hp v
  · obtain ⟨_, _, _, _, _, rfl, rfl, rfl, rfl⟩ := ksMixStep_next hk
    split
    · exact .lastPass hp w
    · exact .pass hp w
  · cases he
    generalize whiten w s.sTab.read (s.wa, s.wb) = x
    split
    · exact .completion (.inl hp) x 1
    · exact .round (.inl hp) x 1 .encRound (.inl rfl)
  · obtain ⟨_, _, rfl, rfl⟩ := encRoundStep_next he
    generalize encryptRound w s.sTab.read s.k.toNat (s.wa, s.wb) = x
    split
    · exact .completion (.inr (.inl hp)) x s.k
    · exact .round (.inr (.inl hp)) x (s.k + 1) s.phase (.inl hp)
  · obtain ⟨_, _, rfl, rfl⟩ := decRoundStep_next hd
    generalize decryptRound w s.sTab.read s.k.toNat (s.wa, s.wb) = x
    split
    · exact .round (.inr (.inr hp)) x s.k .decPost (.inr (.inr rfl))
    · exact .round (.inr (.inr hp)) x (s.k - 1) s.phase (.inr (.inl hp))
  · cases hd
    generalize unwhiten w s.sTab.read (s.wa, s.wb) = x
    exact .completion (.inr (.inr hp)) x s.k

/-- A micro-step writes DONE, VALID, CTX, the outputs, PHASE, K, WA, WB, WI, WJ and the tables S and L at most. -/
theorem microStep_writes {s t : State} (h : microStep s = .next t) :
    t = { s with
      done := t.done, valid := t.valid, ctxW := t.ctxW, ctxR := t.ctxR, aOut := t.aOut, bOut := t.bOut
      phase := t.phase, k := t.k, wa := t.wa, wb := t.wb, wi := t.wi, wj := t.wj, sTab := t.sTab, lArr := t.lArr } := by
  cases microStep_effect h <;> rfl

/-- What the completion of a command writes: DONE, the outputs, VALID and CTX. -/
def State.results (s : State) : Bool × (Word × Word) × Bool × BitVec 8 × BitVec 32 :=
  (s.done, s.outputs, s.valid, s.ctxW, s.ctxR)

/-- A micro-step that does not complete the command leaves its results. -/
theorem microStep_results_eq {s t : State} (h : microStep s = .next t) (running : t.phase ≠ .idle) :
    t.results = s.results := by
  cases microStep_effect h with
  | nothing | entry | lastEntry | pass | round => rfl
  | lastPass | completion => exact absurd rfl running

/-- The micro-steps of ENCRYPT and DECRYPT, and the turn of an idle engine, leave L and the mixing indices. -/
theorem microStep_mixing_eq {s t : State} (notBuild : s.phase ≠ .ksInit ∧ s.phase ≠ .ksMix)
    (h : microStep s = .next t) : t.wi = s.wi ∧ t.wj = s.wj ∧ t.lArr = s.lArr := by
  cases microStep_effect h with
  | entry hp | lastEntry hp => exact absurd hp notBuild.1
  | pass hp | lastPass hp => exact absurd hp notBuild.2
  | nothing | round | completion => exact ⟨rfl, rfl, rfl⟩

/-- A KS_INIT micro-step writes entry K of S and none of L (41_key_schedule.md R133). -/
theorem microStep_ksInit_tables {s t : State} (init : s.phase = .ksInit) (h : microStep s = .next t) :
    t.lArr = s.lArr ∧ ∃ v, t.sTab = s.sTab.write s.k.toNat v := by
  cases microStep_effect h with
  | entry _ v | lastEntry _ v => exact ⟨rfl, v, rfl⟩
  | nothing hp | pass hp | lastPass hp | round hp | completion hp => simp [init] at hp

/-- A KS_MIX micro-step writes entry WI of S, and entry WJ of L unless it completes the BUILD, which zeroes L; it leaves
the outputs (41_key_schedule.md R134, R136). -/
theorem microStep_ksMix_tables {s t : State} (mix : s.phase = .ksMix) (h : microStep s = .next t) :
    (∃ a, t.sTab = s.sTab.write s.wi.toNat a) ∧
      ((t.phase = .ksMix ∧ ∃ b, t.lArr = s.lArr.write s.wj.toNat b) ∨ (t.phase = .idle ∧ t.lArr = [])) ∧
      t.aOut = s.aOut ∧ t.bOut = s.bOut := by
  cases microStep_effect h with
  | pass => exact ⟨⟨_, rfl⟩, .inl ⟨mix, _, rfl⟩, rfl, rfl⟩
  | lastPass => exact ⟨⟨_, rfl⟩, .inr ⟨rfl, rfl⟩, rfl, rfl⟩
  | nothing hp | entry hp | lastEntry hp | round hp | completion hp => simp [mix] at hp

/-- A table is read as before at every index but the one written. -/
theorem Memory.read_of_write {m m' : Memory} (hm : m.wf = true) {a : Nat} {v : Word} (h : m' = m.write a v) {b : Nat}
    (hb : b ≠ a) : m'.read b = m.read b := by
  rw [h, Memory.read_write hm, if_neg hb]

/-- Settles O55: the fields no micro-step writes, then what each phase writes. -/
theorem microStepFrame : Obligations.MicroStepFrame := by
  intro s t h
  refine ⟨?_, fun running => ?_, fun notInit notMix => ?_, fun hp => microStep_ksInit_tables hp h, fun hp => ?_,
    fun hp hs => ?_, fun hp hs hL => ?_⟩
  · rw [microStep_writes h]
    simp
  · have kept := microStep_results_eq h running
    simp only [State.results, State.outputs, Prod.mk.injEq] at kept
    obtain ⟨done, ⟨aOut, bOut⟩, valid, ctxW, ctxR⟩ := kept
    exact ⟨done, aOut, bOut, valid, ctxW, ctxR⟩
  · have context := microStep_context_eq ⟨notInit, notMix⟩ h
    simp only [State.context, Prod.mk.injEq] at context
    obtain ⟨valid, sTab, ctxW, ctxR⟩ := context
    obtain ⟨wi, wj, lArr⟩ := microStep_mixing_eq ⟨notInit, notMix⟩ h
    exact ⟨valid, ctxW, ctxR, wi, wj, fun a => ⟨congrArg (Memory.read · a) sTab, congrArg (Memory.read · a) lArr⟩⟩
  · obtain ⟨sTab, lArr, _⟩ := microStep_ksMix_tables hp h
    exact ⟨sTab, lArr⟩
  · obtain ⟨lArr, v, sTab⟩ := microStep_ksInit_tables hp h
    exact ⟨fun a ne => Memory.read_of_write hs sTab ne, fun a => congrArg (Memory.read · a) lArr⟩
  · obtain ⟨⟨a, sTab⟩, lArr, aOut, bOut⟩ := microStep_ksMix_tables hp h
    refine ⟨aOut, bOut, fun i ne => Memory.read_of_write hs sTab ne, fun mixing j ne => ?_⟩
    rcases lArr with ⟨_, b, written⟩ | ⟨idle, _⟩
    · exact Memory.read_of_write hL written ne
    · simp [mixing] at idle

end Sys2Proof.Machine
end

section
/-! PROOFS. Whose turn it is (20_memory.md R73, 70_reset_and_hazards.md R209): a step by its turn, and the command words that
the Host presents in its turn. -/

namespace Sys2Proof.Machine

theorem step_of_cons {s : State} {turn : Turn} {sch : List Turn} (h : s.schedule = turn :: sch) :
    step s = takeTurn turn { s with schedule := sch } := by
  simp only [step, nextEvent, h]

theorem step_of_nil {s : State} (h : s.schedule = []) : step s = takeTurn s.defaultTurn s := by
  simp only [step, nextEvent, h]

/-- With the schedule run out the Engine moves while a command is in progress (70_reset_and_hazards.md R209). -/
theorem step_of_nil_busy {s : State} (h : s.schedule = []) (hb : s.busy = true) : step s = microStep s := by
  simp only [step_of_nil h, State.defaultTurn, hb, if_true, takeTurn]

/-- With the schedule run out and the engine idle the Host moves. -/
theorem step_of_nil_idle {s : State} (h : s.schedule = []) (hb : s.busy = false) : step s = hostStep s := by
  simp [step_of_nil h, State.defaultTurn, hb, takeTurn]

/-- Settles O30: the turns of an idle engine, and of a busy one. -/
theorem engineTurns : Obligations.EngineTurns := by
  refine ⟨fun s hp => microStep_of_idle hp, fun s hp hs hprog => ?_, fun s sch hs => step_of_cons hs,
    fun s hs hb => step_of_nil_busy hs (busy_eq_true.2 hb)⟩
  rw [step_of_nil_idle hs (busy_eq_false.2 hp), hostStep, hprog]

/-- A Host step that writes to CMD presents the word (10_state.md R25). -/
theorem hostStep_command {s : State} {cw : Word} {rest : List HostOp} (h : s.program = .write 0x018 8 cw :: rest) :
    hostStep s = mapNext (State.respond (.write .okay)) (acceptWord cw { s with program := rest }) := by
  simp only [hostStep, h]
  exact busWrite_offset .cmd cw _

theorem acceptWord_of_ok {cw : Word} {i : Instr} (h : decode cw = .ok i) (s : State) : acceptWord cw s = exec i s := by
  simp only [acceptWord, h]

theorem acceptWord_of_error {cw : Word} {e : DecodeReject} (h : decode cw = .error e) (s : State) :
    acceptWord cw s = .next (illegalCommand (opField cw) s) := by
  simp only [acceptWord, h]

/-- The word of a table row is the number of its bits (30_encoding.md R90). -/
theorem decode_of_decodeTableWord {w : Nat} {i : Instr} (h : decodeTableWord 64 w = some i) :
    decode (BitVec.ofNat 64 (w % 2 ^ 64)) = .ok i := by
  rw [decodeTableWord, if_pos (Nat.mod_lt _ (Nat.two_pow_pos _))] at h
  cases hd : decode (BitVec.ofNat 64 (w % 2 ^ 64)) with
  | ok j =>
    rw [hd] at h
    exact congrArg Except.ok (Option.some.inj h)
  | error e =>
    rw [hd] at h
    cases h

/-- Settles O29: the Host's turn presents the word, which is a command or none. -/
theorem stepRunsTheDecodedCommand : Obligations.StepRunsTheDecodedCommand := by
  refine ⟨fun s cw i rest hprog hd => ⟨fun sch hs => ?_, fun hs hb => ?_⟩, fun s cw e rest sch hprog hs hd => ?_,
    fun s w i hw => ?_⟩
  · rw [step_of_cons hs, takeTurn, hostStep_command (s := { s with schedule := sch }) hprog, acceptWord_of_ok hd]
  · rw [step_of_nil_idle hs hb, hostStep_command hprog, acceptWord_of_ok hd]
  · rw [step_of_cons hs, takeTurn, hostStep_command (s := { s with schedule := sch }) hprog, acceptWord_of_error hd,
      mapNext_next]
  · rw [step_of_cons (s := s.withFetchWord 64 w) rfl, takeTurn, hostStep_command rfl,
      acceptWord_of_ok (decode_of_decodeTableWord hw)]
    rfl

end Sys2Proof.Machine
end

section
/-! PROOFS. A command in progress under any interleaving (70_reset_and_hazards.md R206, R209): the events that are not
micro-steps leave the Engine's part of the state, so the command does what its micro-steps alone would do. -/

namespace Sys2Proof.Machine

/-- The run of the Engine's part is the Engine's part of the run. -/
theorem microSteps_onEnginePart (n : Nat) : OnEnginePart (microSteps n) := by
  induction n with
  | zero => exact fun _ => rfl
  | succ n ih =>
    intro s
    have first := microStep_onEnginePart s
    cases hm : microStep s with
    | next t =>
      rw [hm] at first
      rw [microSteps_succ hm, microSteps_succ first, ih t]
    | fault r => simp only [microSteps, hm, first, mapNext]
    | refused r => simp only [microSteps, hm, first, mapNext]

theorem RunsTo.enginePart {n : Nat} {s t : State} (h : RunsTo n s t) : RunsTo n s.enginePart t.enginePart := by
  obtain ⟨run, busy⟩ := h
  refine ⟨by rw [microSteps_onEnginePart, run, mapNext_next], fun m hm => ?_⟩
  obtain ⟨u, hu, notIdle⟩ := busy m hm
  exact ⟨u.enginePart, by rw [microSteps_onEnginePart, hu, mapNext_next], notIdle⟩

/-- A run goes on from each of its states. -/
theorem RunsTo.drop {m n : Nat} {s t u : State} (h : RunsTo (m + n) s t) (hu : microSteps m s = .next u) :
    RunsTo n u t := by
  obtain ⟨run, busy⟩ := h
  rw [microSteps_add hu] at run
  refine ⟨run, fun k hk => ?_⟩
  rw [← microSteps_add hu]
  exact busy (m + k) (Nat.add_lt_add_left hk m)

/-- A run of at least one micro-step starts from a busy engine, whose micro-step does not stop. -/
theorem RunsTo.start {n : Nat} {s t : State} (h : RunsTo n s t) (hn : n ≠ 0) :
    s.phase ≠ .idle ∧ ∃ u, microStep s = .next u := by
  obtain ⟨run, busy⟩ := h
  obtain ⟨k, rfl⟩ := Nat.exists_eq_succ_of_ne_zero hn
  obtain ⟨s', hs', notIdle⟩ := busy 0 (Nat.succ_pos k)
  obtain rfl := Host.Outcome.next.inj hs'
  refine ⟨notIdle, ?_⟩
  cases hm : microStep s with
  | next u => exact ⟨u, rfl⟩
  | fault r => simp [microSteps, hm] at run
  | refused r => simp [microSteps, hm] at run

theorem State.exists_hostStep (s : State) : ∃ t, hostStep s = .next t := by
  rcases hostStep_effect s with ⟨_, he⟩ | ⟨p, r, u, he, _⟩ | ⟨cw, rest, u, _, _, he, _⟩
  · exact ⟨_, he⟩
  · exact ⟨_, he⟩
  · exact ⟨_, he⟩

/-- No Host access touches the schedule. -/
theorem hostStep_schedule_eq {s t : State} (h : hostStep s = .next t) : t.schedule = s.schedule := by
  rcases hostStep_effect s with ⟨_, he⟩ | ⟨p, r, u, he, hu⟩ | ⟨cw, rest, u, _, _, he, hu⟩
  all_goals obtain rfl := Host.Outcome.next.inj (h.symm.trans he)
  · rfl
  · cases hu <;> rfl
  · cases hu <;> rfl

theorem microStep_schedule_eq {s t : State} (h : microStep s = .next t) : t.schedule = s.schedule := by
  rw [microStep_writes h]

/-- A micro-step stops only for what is in the Engine's part. -/
theorem microStep_of_enginePart {s v : State} (h : microStep s.enginePart = .next v) :
    ∃ u, microStep s = .next u ∧ u.enginePart = v := by
  rw [microStep_onEnginePart] at h
  cases hm : microStep s with
  | next u =>
    rw [hm] at h
    exact ⟨u, rfl, Host.Outcome.next.inj h⟩
  | fault r =>
    rw [hm] at h
    cases h
  | refused r =>
    rw [hm] at h
    cases h

/-- An event other than a reset takes the Engine's part of a busy engine through m = 0 or m = 1 micro-steps, and it takes a
turn off the schedule unless it is a micro-step. -/
theorem step_onEnginePart {s v : State} (noReset : Turn.reset ∉ s.schedule) (hp : s.phase ≠ .idle)
    (goes : microStep s.enginePart = .next v) :
    ∃ u m, step s = .next u ∧ Turn.reset ∉ u.schedule ∧ m ≤ 1 ∧ microSteps m s.enginePart = .next u.enginePart ∧
      u.schedule.length + 1 ≤ s.schedule.length + m := by
  rcases hs : s.schedule with _ | ⟨turn, sch⟩
  · obtain ⟨u, hu, rfl⟩ := microStep_of_enginePart goes
    have kept := (microStep_schedule_eq hu).trans hs
    exact ⟨u, 1, by rw [step_of_nil_busy hs (busy_eq_true.2 hp), hu], by simp [kept], le_rfl, microSteps_succ goes 0,
      by simp [kept]⟩
  rw [hs, List.mem_cons, not_or] at noReset
  obtain ⟨notReset, noLater⟩ := noReset
  rw [step_of_cons hs]
  cases turn with
  | reset => exact absurd rfl notReset
  | engine =>
    obtain ⟨u, hu, rfl⟩ := microStep_of_enginePart (s := { s with schedule := sch }) goes
    have kept : u.schedule = sch := microStep_schedule_eq hu
    exact ⟨u, 1, hu, kept ▸ noLater, le_rfl, microSteps_succ goes 0, by simp [kept]⟩
  | host =>
    have busy : ({ s with schedule := sch } : State).busy = true := busy_eq_true.2 hp
    obtain ⟨u, hu⟩ := State.exists_hostStep { s with schedule := sch }
    have kept : u.schedule = sch := hostStep_schedule_eq hu
    have part : u.enginePart = s.enginePart := hostStep_enginePart_eq (s := { s with schedule := sch }) busy hu
    exact ⟨u, 0, hu, kept ▸ noLater, Nat.zero_le 1, by rw [part]; rfl, by simp [kept]⟩

/-- m events lead from s to u, and before each of them the Engine's part has gone through fewer than n of the micro-steps
that s alone would take. -/
def Interleaved (n m : Nat) (s u : State) : Prop :=
  runSteps m s = .next u ∧
  ∀ k, k < m → ∃ v j, runSteps k s = .next v ∧ j < n ∧ microSteps j s.enginePart = .next v.enginePart

theorem Interleaved.cons {n m d : Nat} {s s' u : State} (h : Interleaved n m s' u) (hs : step s = .next s')
    (part : microSteps d s.enginePart = .next s'.enginePart) (hpos : 0 < d + n) : Interleaved (d + n) (m + 1) s u := by
  obtain ⟨run, through⟩ := h
  refine ⟨by rw [runSteps_succ hs, run], fun k hk => ?_⟩
  cases k with
  | zero => exact ⟨s, 0, rfl, hpos, rfl⟩
  | succ k =>
    obtain ⟨v, j, hv, hj, hpart⟩ := through k (Nat.lt_of_succ_lt_succ hk)
    exact ⟨v, d + j, by rw [runSteps_succ hs, hv], Nat.add_lt_add_left hj d, by rw [microSteps_add part, hpart]⟩

/-- With no reset in the schedule, a command ends after at most as many events as the schedule has turns plus the command has
micro-steps, in the state those micro-steps alone would reach, up to what the Host may write meanwhile. -/
theorem exists_interleaved {N n : Nat} {s t : State} (bound : s.schedule.length + n ≤ N)
    (noReset : Turn.reset ∉ s.schedule) (run : RunsTo n s.enginePart t) :
    ∃ m u, m ≤ N ∧ Interleaved n m s u ∧ u.enginePart = t := by
  induction N generalizing s n with
  | zero =>
    obtain rfl : n = 0 := by omega
    exact ⟨0, s, le_rfl, ⟨rfl, nofun⟩, Host.Outcome.next.inj run.1⟩
  | succ N ih =>
    rcases Nat.eq_zero_or_pos n with rfl | hpos
    · exact ⟨0, s, Nat.zero_le _, ⟨rfl, nofun⟩, Host.Outcome.next.inj run.1⟩
    obtain ⟨hp, v, goes⟩ := run.start hpos.ne'
    obtain ⟨s', d, hs', noReset', hd, part, fewer⟩ := step_onEnginePart noReset hp goes
    obtain ⟨n', rfl⟩ : ∃ n', n = d + n' := Nat.exists_eq_add_of_le (hd.trans hpos)
    obtain ⟨m, u, hm, through, same⟩ := ih (by omega) noReset' (run.drop part)
    exact ⟨m + 1, u, Nat.succ_le_succ hm, through.cons hs' part hpos, same⟩

/-- Before the last event of such a run the engine is busy, in a state of the micro-steps that s alone would take. -/
theorem Interleaved.running {n m : Nat} {s t u : State} (h : Interleaved n m s u) (run : RunsTo n s.enginePart t)
    {k : Nat} (hk : k < m) : ∃ v, runSteps k s = .next v ∧ v.phase ≠ .idle ∧
      ∃ j, microSteps j s.enginePart = .next v.enginePart := by
  obtain ⟨v, j, hv, hj, part⟩ := h.2 k hk
  obtain ⟨x, hx, notIdle⟩ := run.2 j hj
  obtain rfl := Host.Outcome.next.inj (part.symm.trans hx)
  exact ⟨v, hv, notIdle, j, part⟩

/-- Where the Engine's parts are equal, so is everything that lies in them. -/
theorem State.eq_of_enginePart {α : Type} {t u : State} (h : t.enginePart = u.enginePart) (f : State → α)
    (hf : ∀ x, f x.enginePart = f x) : f t = f u := by rw [← hf t, ← hf u, h]

/-- What the Host sees of the completion of a command lies in the Engine's part. -/
theorem State.completion_eq {t u : State} (h : t.enginePart = u.enginePart) :
    t.phase = u.phase ∧ t.results = u.results ∧ t.err = u.err ∧ t.lastOp = u.lastOp ∧ t.sTab = u.sTab :=
  ⟨eq_of_enginePart h State.phase fun _ => rfl, eq_of_enginePart h State.results fun _ => rfl,
    eq_of_enginePart h State.err fun _ => rfl, eq_of_enginePart h State.lastOp fun _ => rfl,
    eq_of_enginePart h State.sTab fun _ => rfl⟩

/-- Settles O38: the run of `runsTo_build`, interleaved; the Engine's part of the completed BUILD is what O37 says of it. -/
theorem buildIsRightUnderAnyInterleaving : Obligations.BuildIsRightUnderAnyInterleaving := by
  intro s s₁ w hb hbits hB hR htables noReset h
  obtain ⟨hs, hL, _⟩ := htables
  have hl : s.buildLegal w := ⟨Width.ofField_eq_some.2 hbits, hB, hR⟩
  obtain rfl := Host.Outcome.next.inj (h.symm.trans (exec_build_of_legal hb hl))
  have run := (runsTo_build hl hs hL rfl rfl).enginePart
  obtain ⟨n, t, hn, through, same⟩ := exists_interleaved (s := startBuild w s) le_rfl noReset run
  obtain ⟨phase, results, err, lastOp, table⟩ := State.completion_eq same
  simp only [State.results, Prod.mk.injEq] at results
  obtain ⟨done, _, valid, ctxW, ctxR⟩ := results
  refine ⟨n, t, hn, through.1, fun m hm => ?_, phase, valid, ctxW, ctxR, done, err, lastOp, fun i hi => ?_⟩
  · obtain ⟨v, hv, notIdle, _⟩ := through.running run hm
    exact ⟨v, hv, notIdle⟩
  · rw [table]
    exact buildAfter_sTab_read w hs hi

theorem microSteps_of_idle {s : State} (hp : s.phase = .idle) (n : Nat) : microSteps n s = .next s := by
  induction n with
  | zero => rfl
  | succ n ih => rw [microSteps_succ (microStep_of_idle hp), ih]

/-- As long as the command has not completed, its results are as before it. -/
theorem microSteps_results_eq {n : Nat} {s t : State} (h : microSteps n s = .next t) (running : t.phase ≠ .idle) :
    t.results = s.results := by
  induction n generalizing s with
  | zero => exact congrArg State.results (Host.Outcome.next.inj h).symm
  | succ n ih =>
    cases hm : microStep s with
    | next u =>
      rw [microSteps_succ hm] at h
      have notYet : u.phase ≠ .idle := fun hp => running <| by
        rw [← Host.Outcome.next.inj ((microSteps_of_idle hp n).symm.trans h), hp]
      exact (ih h).trans (microStep_results_eq hm notYet)
    | fault r => simp [microSteps, hm] at h
    | refused r => simp [microSteps, hm] at h

/-- Settles O47: the run of `runsTo_block`, interleaved. -/
theorem blockResultUnderAnyInterleaving : Obligations.BlockResultUnderAnyInterleaving := by
  intro s s₁ w i hi hb hv hbits hblock noReset h
  obtain ⟨s', k, accepted, run⟩ := runsTo_block hi hb hv hbits hblock
  obtain rfl := Host.Outcome.next.inj (h.symm.trans accepted)
  have notClear : i ≠ .clear := by rcases hblock with rfl | rfl <;> decide
  obtain ⟨⟨_, _, _, _, _, _, _, _, _, _, schedule, _⟩, outputs, _⟩ := commandFrame i s s₁ h
  obtain ⟨aOut, bOut, _⟩ := outputs notClear
  obtain ⟨n, t, hn, through, same⟩ := exists_interleaved le_rfl (schedule ▸ noReset) run.enginePart
  rw [schedule] at hn
  obtain ⟨phase, results, err, lastOp, _⟩ := State.completion_eq same
  simp only [State.results, Prod.mk.injEq] at results
  obtain ⟨done, result, _⟩ := results
  refine ⟨n, t, hn, through.1, fun m hm => ?_, phase, done, err, lastOp, ?_⟩
  · obtain ⟨v, hv, notIdle, j, part⟩ := through.running run.enginePart hm
    have kept := microSteps_results_eq part notIdle
    simp only [State.results, State.outputs, Prod.mk.injEq] at kept
    obtain ⟨_, ⟨aKept, bKept⟩, _⟩ := kept
    exact ⟨v, hv, notIdle, aKept.trans aOut, bKept.trans bOut⟩
  · rw [afterBlock_outputs hbits (blockFunction_fits ..), State.inputBlock, hbits] at result
    refine result.trans ?_
    unfold blockFunction
    split <;> rfl

end Sys2Proof.Machine
end

section
/-! PROOFS. The encoder and the decoder (30_encoding.md R90, R91, 20_memory.md R70): by word, by table row and by bytes. -/

namespace Sys2Proof

/-- A table row of 64 bits is decoded as the word it is. -/
theorem decodeTableWord_toNat (cw : BitVec 64) : decodeTableWord 64 cw.toNat = (decode cw).toOption := by
  rw [decodeTableWord, Nat.mod_eq_of_lt cw.isLt, if_pos cw.isLt, BitVec.ofNat_toNat, BitVec.setWidth_eq]

/-- A word is made of its eight byte lanes (20_memory.md R70). -/
theorem wordOfLanes_extractLsb' (cw : BitVec 64) :
    wordOfLanes (cw.extractLsb' 0 8) (cw.extractLsb' 8 8) (cw.extractLsb' 16 8) (cw.extractLsb' 24 8)
      (cw.extractLsb' 32 8) (cw.extractLsb' 40 8) (cw.extractLsb' 48 8) (cw.extractLsb' 56 8) = cw := by
  simp only [wordOfLanes, BitVec.extractLsb'_append_extractLsb'_eq_extractLsb']
  exact BitVec.extractLsb'_eq_self

/-- The byte lanes of a word are decoded as the word, and what follows them is left. -/
theorem decodeBytes_lanes (cw : BitVec 64) (rest : List Byte) :
    decodeBytes ((List.range 8).map (fun m => cw.extractLsb' (8 * m) 8) ++ rest) =
      (decode cw).map (fun i => (i, rest)) :=
  congrArg (fun x => (decode x).map (fun i => (i, rest))) (wordOfLanes_extractLsb' cw)

/-- Settles O2: each form of the word is decoded as the word, and the word as the command. -/
theorem encodeThenDecodeGivesTheCommand : Obligations.EncodeThenDecodeGivesTheCommand := by
  intro i _
  refine ⟨decode_encode i, ?_, fun rest => ?_⟩
  · rw [decodeTableWord_toNat, decode_encode]
    rfl
  · rw [decodeBytes_lanes, decode_encode]
    rfl

/-- Settles O3: only the word of a command decodes to it. -/
theorem decodeAcceptsOnlyCommandWords : Obligations.DecodeAcceptsOnlyCommandWords := fun _ _ => decode_eq_ok_iff

end Sys2Proof
end

section
/-! PROOFS. The registers as the Host reads and writes them (10_state.md section 2, 20_memory.md R64 to R68). -/

namespace Sys2Proof.Machine

/-! STATUS, bit by bit and field by field (10_state.md R26). -/

/-- BUSY is bit 0 of STATUS. -/
theorem State.statusWord_busy (s : State) : s.statusWord.getLsbD 0 = s.busy := by
  simp only [State.statusWord, BitVec.getLsbD_append]
  simp

theorem State.statusWord_done (s : State) : s.statusWord.getLsbD 2 = s.done := by
  simp only [State.statusWord, BitVec.getLsbD_append]
  simp

theorem State.statusWord_overrun (s : State) : s.statusWord.getLsbD 3 = s.overrun := by
  simp only [State.statusWord, BitVec.getLsbD_append]
  simp

theorem State.statusWord_err (s : State) : s.statusWord.extractLsb' 8 8 = s.err.code :=
  (BitVec.extractLsb'_append_eq_of_add_le (by decide)).trans (extractLsb'_append_append s.lastOp s.err.code _)

theorem State.statusWord_lastOp (s : State) : s.statusWord.extractLsb' 16 4 = s.lastOp :=
  extractLsb'_append_append (0 : BitVec 44) s.lastOp _

/-- Codes 6 to 255 are never recorded (60_exceptions.md R181). -/
theorem ErrCode.code_le (c : ErrCode) : c.code.toNat ≤ 5 := by cases c <;> decide

/-- Settles O22: the fields of the STATUS word. -/
theorem statusRegisterFields : Obligations.StatusRegisterFields := by
  intro s
  refine ⟨s.statusWord, busReadResult_offset .status s, ?_, s.statusWord_valid, s.statusWord_done, s.statusWord_overrun,
    s.statusWord_reserved_low, s.statusWord_err, s.statusWord_lastOp, s.statusWord_reserved_high, ?_⟩
  · rw [s.statusWord_busy, busy_eq_true]
  · rw [s.statusWord_err]
    exact s.err.code_le

/-- Settles O25: the window of a held context, below its bound and above it, and without a context. -/
theorem sDataWindow : Obligations.SDataWindow := by
  intro s
  have reads := busReadResult_offset .sData s
  refine ⟨fun hv hlt => ?_, fun closed => ?_, fun d => busWrite_offset .sData d s⟩
  · exact reads.trans (congrArg (·, Resp.okay) (if_pos ⟨hv, hlt⟩))
  · have outside : ¬ (s.valid = true ∧ s.sIndex.toNat < tableLength s.ctxR.toNat) := by
      rintro ⟨hv, hlt⟩
      rcases closed with invalid | above
      · simp [invalid] at hv
      · exact absurd hlt (Nat.not_lt.2 above)
    exact reads.trans (congrArg (·, Resp.okay) (if_neg outside))

/-- CAP as a number: R_MAX above the constant low half (10_state.md R23). -/
theorem State.capWord_eq_ofNat (s : State) : s.capWord = BitVec.ofNat 64 (s.rMax.toNat <<< 32 + 0xFF07) := by
  have fits : s.rMax.toNat <<< 32 + 0xFF07 < 2 ^ 64 := by
    have := s.rMax.isLt
    rw [Nat.shiftLeft_eq]
    omega
  apply BitVec.eq_of_toNat_eq
  rw [BitVec.toNat_ofNat, Nat.mod_eq_of_lt fits, Nat.shiftLeft_add_eq_or_of_lt (by decide)]
  calc s.capWord.toNat
    _ = 0 <<< 48 ||| (s.rMax ++ (0xFF07 : BitVec 32)).toNat := by rw [s.capWord_eq]; exact BitVec.toNat_append ..
    _ = s.rMax.toNat <<< 32 ||| 0xFF07 := by rw [BitVec.toNat_append, Nat.zero_shiftLeft, Nat.zero_or]; rfl

/-- Settles O27: the twelve registers at their offsets, then the KEY registers. -/
theorem resetRegisterValues : Obligations.ResetRegisterValues := by
  intro rMax
  have reads (r : Reg) := busReadResult_offset r (State.resetWith rMax)
  have cfg : State.reset.cfgWord = 0x0000000C00001020 := by decide
  have status : State.reset.statusWord = 0 := by decide
  have ctx : State.reset.ctxWord = 0 := by decide
  refine ⟨fun off v h => ?_, fun q => reads (.key q)⟩
  simp only [List.mem_cons, Prod.mk.injEq, List.not_mem_nil, or_false] at h
  rcases h with ⟨rfl, rfl⟩ | ⟨rfl, rfl⟩ | ⟨rfl, rfl⟩ | ⟨rfl, rfl⟩ | ⟨rfl, rfl⟩ | ⟨rfl, rfl⟩ | ⟨rfl, rfl⟩ | ⟨rfl, rfl⟩ |
    ⟨rfl, rfl⟩ | ⟨rfl, rfl⟩ | ⟨rfl, rfl⟩ | ⟨rfl, rfl⟩
  · exact reads .id
  · exact (reads .cap).trans (congrArg (·, Resp.okay) (State.capWord_eq_ofNat _))
  · exact (reads .cfg).trans (congrArg (·, Resp.okay) cfg)
  · exact reads .cmd
  · exact (reads .status).trans (congrArg (·, Resp.okay) status)
  · exact (reads .ctx).trans (congrArg (·, Resp.okay) ctx)
  · exact reads .aIn
  · exact reads .bIn
  · exact reads .aOut
  · exact reads .bOut
  · exact reads .sIndex
  · exact reads .sData

/-- What a bus read returns depends on the state through the registers alone (20_memory.md R64). -/
theorem busReadResult_congr {s t : State} (h : ∀ r, readReg r s = readReg r t) (off : BitVec 12) (size : Nat) :
    busReadResult off size s = busReadResult off size t := by
  simp only [busReadResult, h]

/-- No register shows the last response (20_memory.md R68). -/
theorem readReg_respond (r : Reg) (b : BusResult) (s : State) : readReg r (s.respond b) = readReg r s := by
  cases r <;> rfl

/-- Settles O21: reads, the four plain read-write registers, the register words, and the KEY registers. -/
theorem registerAccessEffects : Obligations.RegisterAccessEffects := by
  refine ⟨fun off off' size size' s => ⟨rfl, busReadResult_congr (fun r => readReg_respond r _ s) _ _⟩, fun d s => ?_,
    fun s => ?_, fun d s => ⟨busReadResult_offset .aIn _, busReadResult_offset .bIn _⟩, fun q d s hkey => ?_⟩
  · exact ⟨busWrite_offset .cfg d s, busWrite_offset .aIn d s, busWrite_offset .bIn d s, busWrite_offset .sIndex d s⟩
  · have reads (r : Reg) := busReadResult_offset r s
    refine ⟨reads .cfg, reads .ctx, reads .aIn, reads .bIn, reads .aOut, reads .bOut, ?_, fun k hk => ?_⟩
    · exact (reads .sIndex).trans (congrArg (·, Resp.okay) (BitVec.setWidth_eq_append (by decide)))
    · exact ⟨_, reads (.key ⟨k / 8, by omega⟩), rfl, rfl⟩
  · refine ⟨_, busWrite_offset (.key q) d s, rfl, fun p => ?_⟩
    have written := Memory.read_write hkey q.val d p.val
    simp only [← Fin.ext_iff] at written
    exact (busReadResult_offset (.key p) _).trans (congrArg (·, Resp.okay) written)

end Sys2Proof.Machine
end

section
/-! PROOFS. Runs of the Host's pseudo-instructions (30_encoding.md R100): POLL, SETCFG and LOADKEY. -/

namespace Sys2Proof.Machine

/-- A run of at least one step starts with a step that goes on. -/
theorem runSteps_uncons {n : Nat} {s t : State} (h : runSteps (n + 1) s = .next t) :
    ∃ u, step s = .next u ∧ runSteps n u = .next t := by
  cases hs : step s with
  | next u => exact ⟨u, rfl, runSteps_succ hs n ▸ h⟩
  | fault r =>
    have stops : core.step s = .fault r := hs
    simp [runSteps, Host.Core.run, stops] at h
  | refused r =>
    have stops : core.step s = .refused r := hs
    simp [runSteps, Host.Core.run, stops] at h

/-- Steps one after another: m of them, then n more. -/
theorem runSteps_add {m : Nat} {s t : State} (h : runSteps m s = .next t) (n : Nat) :
    runSteps (m + n) s = runSteps n t := by
  induction m generalizing s with
  | zero =>
    cases h
    simp
  | succ m ih =>
    obtain ⟨u, hu, rest⟩ := runSteps_uncons h
    rw [Nat.add_right_comm, runSteps_succ hu, ih rest]

theorem runSteps_concat {n : Nat} {s t u : State} (h : runSteps n s = .next t) (hs : step t = .next u) :
    runSteps (n + 1) s = .next u := by
  rw [runSteps_add h, runSteps_succ hs, runSteps_zero]

/-! POLL. -/

/-- With the schedule run out, the steps of a busy engine are its micro-steps, and the Host waits. -/
theorem RunsTo.runSteps {n : Nat} {s t : State} (h : RunsTo n s t) (hs : s.schedule = []) :
    runSteps n s = .next t ∧ t.schedule = [] ∧ t.program = s.program := by
  induction n generalizing s with
  | zero =>
    obtain rfl := Host.Outcome.next.inj h.1
    exact ⟨rfl, hs, rfl⟩
  | succ n ih =>
    obtain ⟨hp, u, hu⟩ := h.start (Nat.succ_ne_zero n)
    have writes := microStep_writes hu
    obtain ⟨run, schedule, program⟩ :=
      ih ((Nat.add_comm n 1 ▸ h).drop (microSteps_succ hu 0)) (by rw [writes, hs])
    refine ⟨?_, schedule, by rw [program, writes]⟩
    rw [runSteps_succ ((step_of_nil_busy hs (busy_eq_true.2 hp)).trans hu), run]

/-- POLL of an idle engine reads STATUS once and is done (30_encoding.md R100). -/
theorem hostStep_poll {s : State} {rest : List HostOp} (hb : s.busy = false) (h : s.program = .poll :: rest) :
    hostStep s = .next (State.respond (.read s.statusWord .okay) { s with program := rest }) := by
  have reads (p : List HostOp) : busReadResult 0x020 8 { s with program := p } = (s.statusWord, .okay) :=
    busReadResult_offset .status _
  have bit : ¬ (busReadResult 0x020 8 s).1.getLsbD 0 = true := by
    rw [show busReadResult 0x020 8 s = (s.statusWord, .okay) from busReadResult_offset .status s, s.statusWord_busy, hb]
    decide
  simp only [hostStep, h, if_neg bit, busRead_of_result (reads rest)]

/-- Settles O57: the micro-steps that remain, then the one read of an idle engine. -/
theorem pollEnds : Obligations.PollEnds := by
  intro s rest hi hs hprog
  obtain ⟨t, run, idle⟩ := runsTo_idle hi rfl
  obtain ⟨steps, schedule, program⟩ := run.runSteps hs
  have hb := busy_eq_false.2 idle
  have last := (step_of_nil_idle schedule hb).trans (hostStep_poll hb (program.trans hprog))
  exact ⟨_, runSteps_concat steps last, rfl, hb, rfl⟩

/-! SETCFG and LOADKEY. -/

section
variable {w r b : Nat} (hw : w < 2 ^ 8) (hr : r < 2 ^ 32) (hb : b < 2 ^ 16)
include hw hr hb

theorem setcfgWord_toNat : (setcfgWord w r b).toNat = r * 2 ^ 32 + b * 2 ^ 8 + w := by
  rw [setcfgWord, BitVec.toNat_ofNat, Nat.shiftLeft_eq, Nat.shiftLeft_eq]
  exact Nat.mod_eq_of_lt (by omega)

/-- The fields of the word SETCFG writes are the three values (10_state.md R24). -/
theorem setcfgWord_fields : (setcfgWord w r b).extractLsb' 0 8 = BitVec.ofNat 8 w ∧
    (setcfgWord w r b).extractLsb' 8 16 = BitVec.ofNat 16 b ∧
    (setcfgWord w r b).extractLsb' 32 32 = BitVec.ofNat 32 r := by
  have field (start len : Nat) : ((setcfgWord w r b).extractLsb' start len).toNat =
      (r * 2 ^ 32 + b * 2 ^ 8 + w) / 2 ^ start % 2 ^ len := by
    rw [BitVec.extractLsb'_toNat, setcfgWord_toNat hw hr hb, Nat.shiftRight_eq_div_pow]
  refine ⟨BitVec.eq_of_toNat_eq ?_, BitVec.eq_of_toNat_eq ?_, BitVec.eq_of_toNat_eq ?_⟩
  · rw [field, BitVec.toNat_ofNat]
    omega
  · rw [field, BitVec.toNat_ofNat]
    omega
  · rw [field, BitVec.toNat_ofNat]
    omega

end

/-- The Host's turn with an access of LOADKEY: the word goes to its KEY register. -/
theorem step_writeKey {s : State} {q : Fin 32} {d : Word} {ops : List HostOp} {sch : List Turn}
    (hprog : s.program = writeOp (.key q) d :: ops) (hs : s.schedule = .host :: sch) :
    ∃ t, step s = .next t ∧ t.program = ops ∧ t.schedule = sch ∧ t.key = s.key.write q.val d := by
  refine ⟨State.respond (.write .okay) { s with key := s.key.write q.val d, program := ops, schedule := sch }, ?_, rfl, rfl,
    rfl⟩
  rw [step_of_cons hs]
  simp only [takeTurn, hostStep, hprog, writeOp]
  exact busWrite_offset (.key q) d _

/-- The first n words of a key, as LOADKEY takes them (30_encoding.md R100). -/
def loadkeyWords (bytes : List Byte) (n : Nat) : List Word := (List.range n).map (loadkeyWord bytes)

theorem runSteps_loadkey (bytes : List Byte) {n : Nat} (hn : n ≤ 32) {s : State} {rest : List HostOp} {sch : List Turn}
    (hprog : s.program = (List.range n).map (fun q => writeOp (.key (Fin.ofNat 32 q)) (loadkeyWord bytes q)) ++ rest)
    (hs : s.schedule = List.replicate n Turn.host ++ sch) :
    ∃ t, runSteps n s = .next t ∧ t.program = rest ∧ t.schedule = sch ∧
      t.key = s.key.writeFrom 0 (loadkeyWords bytes n) := by
  induction n generalizing rest sch with
  | zero => exact ⟨s, rfl, hprog, hs, rfl⟩
  | succ n ih =>
    rw [List.range_succ, List.map_append, List.append_assoc] at hprog
    rw [List.replicate_succ', List.append_assoc] at hs
    obtain ⟨t, run, program, schedule, key⟩ := ih (by omega) hprog hs
    obtain ⟨u, last, program', schedule', key'⟩ := step_writeKey program schedule
    refine ⟨u, runSteps_concat run last, program', schedule', ?_⟩
    have index : (Fin.ofNat 32 n).val = n := Nat.mod_eq_of_lt hn
    rw [key', key, index]
    simp [loadkeyWords, List.range_succ, Memory.writeFrom_concat]

/-- LOADKEY writes the key as words of eight bytes (20_memory.md R71). -/
theorem loadkeyWord_eq_keyWords {bytes : List Byte} {q : Nat} (hq : q < wordCount .w64 bytes.length) :
    loadkeyWord bytes q = (keyWords .w64 bytes).getD q 0 := by
  rw [keyWords_getD hq, Nat.mul_comm]
  rfl

/-- A KEY buffer that holds the words of LOADKEY holds the key's bytes (10_state.md R34). -/
theorem keyBytes_of_loadkeyWord {key : Memory} {bytes : List Byte}
    (h : ∀ q, q < (bytes.length + 7) / 8 → key.read q = loadkeyWord bytes q) : keyBytes key bytes.length = bytes := by
  refine List.ext_getElem (keyBytes_length _ _) fun i _ hi => ?_
  have hq : i / 8 < (bytes.length + 7) / 8 := by omega
  have count : i / 8 < wordCount .w64 bytes.length := Nat.lt_of_lt_of_le hq (Nat.le_max_right _ _)
  calc (keyBytes key bytes.length)[i]
    _ = (key.read (i / 8)).extractLsb' (8 * (i % 8)) 8 := by simp [keyBytes, keyByte]
    _ = bytes.getD (i / 8 * 8 + i % 8) 0 := by
      rw [h _ hq, loadkeyWord_eq_keyWords count]
      exact keyWords_getD_byte count (Nat.mod_lt i (by decide))
    _ = bytes[i] := by rw [Nat.div_add_mod', List.getD_eq_getElem _ _ hi]

/-- Settles O26: SETCFG's one write, then LOADKEY's run, whose words hold the key's bytes. -/
theorem setcfgAndLoadkeyFillTheirRegisters : Obligations.SetcfgAndLoadkeyFillTheirRegisters := by
  refine ⟨fun w r b s hw hr hb => ⟨_, _, rfl, ?_⟩, fun bytes rest sch s hlen hkey hprog hs => ?_⟩
  · obtain ⟨fieldW, fieldB, fieldR⟩ := setcfgWord_fields hw hr hb
    refine (busWrite_offset .cfg _ s).trans ?_
    rw [← fieldW, ← fieldB, ← fieldR]
    rfl
  · obtain ⟨t, run, program, schedule, key⟩ := runSteps_loadkey bytes (by omega) hprog hs
    have written := Memory.read_writeFrom hkey 0 (loadkeyWords bytes ((bytes.length + 7) / 8))
    simp only [loadkeyWords, List.length_map, List.length_range, Nat.zero_le, true_and, Nat.zero_add, Nat.sub_zero]
      at key written
    refine ⟨t, run, program, schedule, keyBytes_of_loadkeyWord fun q hq => ?_, fun q hq => ?_⟩
    · rw [key, written, if_pos hq]
      simp [List.getD_eq_getElem?_getD, hq]
    · rw [key, written, if_neg (Nat.not_lt.2 hq)]

end Sys2Proof.Machine
end

section
/-! PROOFS. A held context is the key schedule of some key (10_state.md R42): what the BUILD in progress has of it so far, and
that no other step touches it. -/

namespace Sys2Proof.Machine

/-- Of an engine that runs no BUILD the key invariant speaks of the held context alone. -/
theorem State.KeyInv.of_held {s : State} (hp : s.phase ≠ .ksInit ∧ s.phase ≠ .ksMix)
    (held : s.valid = true → ∃ w key, Width.ofField s.ctxW = some w ∧ key.length ≤ Config.keyMax ∧
      holdsKeySchedule w s.ctxR.toNat key s.sTab) : s.KeyInv where
  held := held
  initialising e := absurd e hp.1
  mixing e := absurd e hp.2

/-- The key invariant says nothing of the agents' own fields. -/
theorem State.KeyInv.agents {s : State} (hk : s.KeyInv) (p : List HostOp) (sch : List Turn) (r : Option BusResult) :
    ({ s with program := p, schedule := sch, busResult := r } : State).KeyInv := { hk with }

/-- No register the Host writes is one the key invariant speaks of. -/
theorem RegisterEffect.keyInv {s t : State} (h : RegisterEffect s t) (hk : s.KeyInv) : t.KeyInv := by
  cases h with
  | nothing | cfg | aIn | bIn | sIndex | key => exact { hk with }

/-- An accepted BUILD has the words of the key it latched in L, and no entry of S yet (41_key_schedule.md R131). -/
theorem startBuild_keyInv {s : State} {w : Width} (hi : s.Inv) (hl : s.buildLegal w) : (startBuild w s).KeyInv := by
  obtain ⟨_, hL, _⟩ := hi.tables
  have ⟨hw, hB, _⟩ := hl
  have hc := startBuild_opc_toNat hl
  refine ⟨nofun, fun _ => ⟨w, keyBytes s.key s.cfgB.toNat, ⟨hw, ?_, ?_⟩, fun j hj => ?_, nofun⟩, nofun⟩
  · rwa [keyBytes_length]
  · rw [keyBytes_length, hc]
  · exact startBuild_lArr_read w hL (hc ▸ hj)

theorem CommandEffect.keyInv {d : Except DecodeReject Instr} {s t : State} (h : CommandEffect d s t) (hi : s.Inv)
    (hk : s.KeyInv) : t.KeyInv := by
  cases h with
  | nop => exact hk
  | dropped | failed => exact { hk with }
  | build _ _ w hl => exact startBuild_keyInv hi hl
  | encrypt => exact .of_held ⟨nofun, nofun⟩ hk.held
  | decrypt =>
    refine .of_held ?_ hk.held
    constructor <;> split <;> nofun
  | clear _ hb =>
    have idle : (acceptClear s).phase = .idle := busy_eq_false.1 hb
    exact .of_held (by rw [idle]; exact ⟨nofun, nofun⟩) nofun

/-- No micro-step of an engine that runs no BUILD leads into one. -/
theorem microStep_not_building {s t : State} (notBuild : s.phase ≠ .ksInit ∧ s.phase ≠ .ksMix)
    (h : microStep s = .next t) : t.phase ≠ .ksInit ∧ t.phase ≠ .ksMix := by
  cases microStep_effect h with
  | nothing => exact notBuild
  | entry hp | lastEntry hp => exact absurd hp notBuild.1
  | pass hp | lastPass hp => exact absurd hp notBuild.2
  | round _ _ _ p next => rcases next with rfl | rfl | rfl <;> exact ⟨nofun, nofun⟩
  | completion => exact ⟨nofun, nofun⟩

/-! KS_INIT. -/

/-- With the entries below K those of the initial table, the micro-step makes entry K the next (41_key_schedule.md R133). -/
theorem ksInitNext_initEntry (w : Width) {s : State} (hs : s.sTab.wf = true)
    (h : ∀ i, i < s.k.toNat → s.sTab.read i = initEntry w i) {i : Nat} (hi : i < s.k.toNat + 1) :
    (ksInitNext w s).sTab.read i = initEntry w i := by
  rw [ksInitNext_read w hs]
  by_cases last : i = s.k.toNat
  · rw [if_pos last]
    cases i with
    | zero => rfl
    | succ i => rw [if_neg (Nat.succ_ne_zero i), Nat.add_sub_cancel, h i (by omega), initEntry]
  · rw [if_neg last, h i (by omega)]

/-- The working registers and tables of a BUILD hold the variables of the mixing loop (41_key_schedule.md R134, R139). -/
def State.mixes (m : Mix) (s : State) : Prop :=
  (∀ j, j < s.opc.toNat → s.lArr.read j = m.l.getD j 0) ∧ (∀ i, i < s.opt.toNat → s.sTab.read i = m.s.getD i 0) ∧
    s.wa = m.a ∧ s.wb = m.b ∧ s.wi.toNat = m.i ∧ s.wj.toNat = m.j

/-- The variables at the start of the mixing loop are the initial table, the key words, and zeros (41_key_schedule.md R135). -/
theorem startMix_mixes {s : State} {w : Width} {r : Nat} {key : List Byte} (ht : s.opt.toNat = tableLength r)
    (keyed : ∀ j, j < s.opc.toNat → s.lArr.read j = (keyWords w key).getD j 0)
    (filled : ∀ i, i < s.opt.toNat → s.sTab.read i = initEntry w i) : (startMix s).mixes (mixStart w r key) := by
  refine ⟨keyed, fun i hlt => (filled i hlt).trans ?_, rfl, rfl, rfl, rfl⟩
  have inTable : i < 2 * r + 2 := Nat.lt_of_lt_of_eq hlt ht
  simp [mixStart, List.getD_eq_getElem?_getD, inTable]

theorem ksInit_keyInv {s t : State} (hi : s.Inv) (hk : s.KeyInv) (hp : s.phase = .ksInit) (h : microStep s = .next t) :
    t.KeyInv := by
  obtain ⟨hl, hlt, _⟩ := hi.ksInit hp
  have ⟨_, _, ht, _, _, noContext, _⟩ := hl
  have noneHeld : ¬ s.valid = true := by simp [noContext]
  obtain ⟨hs, _⟩ := hi.tables
  obtain ⟨w, key, latched, keyed, filled⟩ := hk.initialising hp
  have ⟨hw, _⟩ := latched
  have entries : ∀ i, i < s.k.toNat + 1 → (ksInitNext w s).sTab.read i = initEntry w i :=
    fun i => ksInitNext_initEntry w hs filled
  obtain rfl := Host.Outcome.next.inj (h.symm.trans (microStep_ksInit hp hw hl.sized hlt))
  split
  case isTrue last =>
    rw [last] at entries
    have mixes := startMix_mixes (s := ksInitNext w s) ht keyed entries
    exact ⟨fun held => absurd held noneHeld, nofun, fun _ => ⟨w, key, _, latched, rfl, mixes⟩⟩
  case isFalse more =>
    have next : (s.k + 1).toNat = s.k.toNat + 1 := toNat_add_one hlt s.opt.isLt
    have same : (ksInitNext w s).phase = .ksInit := hp
    exact ⟨fun held => absurd held noneHeld, fun _ => ⟨w, key, latched, keyed, next ▸ entries⟩, by simp [same]⟩

/-! KS_MIX. -/

theorem getD_set (l : List Word) {i : Nat} (hi : i < l.length) (v : Word) (j : Nat) :
    (l.set i v).getD j 0 = if j = i then v else l.getD j 0 := by
  by_cases hj : j = i
  · subst hj
    simp [List.getD_eq_getElem?_getD, hi]
  · simp [List.getD_eq_getElem?_getD, hj, Ne.symm hj]

/-- One KS_MIX micro-step is one pass. -/
theorem ksMixNext_mixes (w : Width) {s : State} {m : Mix} (h : s.mixes m) (hs : s.sTab.wf = true) (hL : s.lArr.wf = true)
    (hS : m.s.length = s.opt.toNat) (hC : m.l.length = s.opc.toNat) (hwi : s.wi.toNat < s.opt.toNat)
    (hwj : s.wj.toNat < s.opc.toNat) : (ksMixNext w s).mixes (mixStep w m) := by
  obtain ⟨words, tab, wa, wb, wi, wj⟩ := h
  have entry : s.sTab.read m.i = m.s.getD m.i 0 := tab _ (wi ▸ hwi)
  have keyWord : s.lArr.read m.j = m.l.getD m.j 0 := words _ (wj ▸ hwj)
  have newA : (ksMixNext w s).wa = (mixStep w m).a := by simp only [ksMixNext, mixStep, wa, wb, wi, entry]
  have newB : (ksMixNext w s).wb = (mixStep w m).b := by
    simp only [ksMixNext, mixStep, wa, wb, wi, wj, entry, keyWord]
  refine ⟨fun j hj => ?_, fun i hi => ?_, newA, newB, ?_, ?_⟩
  · change (s.lArr.write s.wj.toNat (ksMixNext w s).wb).read j = (m.l.set m.j (mixStep w m).b).getD j 0
    rw [Memory.read_write hL, getD_set _ (by omega), words j hj, newB, wj]
  · change (s.sTab.write s.wi.toNat (ksMixNext w s).wa).read i = (m.s.set m.i (mixStep w m).a).getD i 0
    rw [Memory.read_write hs, getD_set _ (by omega), tab i hi, newA, wi]
  · change (BitVec.ofNat 32 ((s.wi.toNat + 1) % s.opt.toNat)).toNat = (m.i + 1) % m.s.length
    rw [wi, hS]
    exact Nat.mod_eq_of_lt ((Nat.mod_lt _ (by omega)).trans s.opt.isLt)
  · change (BitVec.ofNat 32 ((s.wj.toNat + 1) % s.opc.toNat)).toNat = (m.j + 1) % m.l.length
    rw [wj, hC]
    exact Nat.mod_eq_of_lt ((Nat.mod_lt _ (by omega)).trans (s.opc.isLt.trans (by decide)))

theorem ksMix_keyInv {s t : State} (hi : s.Inv) (hk : s.KeyInv) (hp : s.phase = .ksMix) (h : microStep s = .next t) :
    t.KeyInv := by
  obtain ⟨hl, hlt, hwi, hwj, _⟩ := hi.ksMix hp
  have ⟨_, _, ht, _, _, noContext, _⟩ := hl
  have noneHeld : ¬ s.valid = true := by simp [noContext]
  obtain ⟨hs, hL, _⟩ := hi.tables
  obtain ⟨w, key, m, latched, rfl, mixes⟩ := hk.mixing hp
  have ⟨hw, hlen, hc⟩ := latched
  have next := ksMixNext_mixes w mixes hs hL (by simp [ht]) (by simp [hc]) hwi hwj
  rw [← mixSteps_succ] at next
  obtain rfl := Host.Outcome.next.inj (h.symm.trans (microStep_ksMix hp hw hl.sized hlt hwi hwj))
  split
  case isTrue last =>
    obtain ⟨_, tab, _⟩ := next
    refine .of_held ⟨nofun, nofun⟩ fun _ => ⟨w, key, hw, hlen, fun i hlt => ?_⟩
    rw [last, ht, hc] at tab
    exact tab i (ht ▸ hlt)
  case isFalse more =>
    have count : (s.k + 1).toNat = s.k.toNat + 1 := toNat_add_one hlt hl.sized.mixCount_lt
    have same : (ksMixNext w s).phase = .ksMix := hp
    rw [← count] at next
    exact ⟨fun held => absurd held noneHeld, by simp [same], fun _ => ⟨w, key, _, latched, rfl, next⟩⟩

/-! Every step. -/

theorem microStep_keyInv {s t : State} (hi : s.Inv) (hk : s.KeyInv) (h : microStep s = .next t) : t.KeyInv := by
  by_cases init : s.phase = .ksInit
  · exact ksInit_keyInv hi hk init h
  by_cases mix : s.phase = .ksMix
  · exact ksMix_keyInv hi hk mix h
  · have context := microStep_context_eq ⟨init, mix⟩ h
    simp only [State.context, Prod.mk.injEq] at context
    obtain ⟨valid, sTab, ctxW, ctxR⟩ := context
    refine .of_held (microStep_not_building ⟨init, mix⟩ h) ?_
    rw [valid, sTab, ctxW, ctxR]
    exact hk.held

/-- Settles O51: the cases of a step. -/
theorem heldContextIsAKeySchedule : Obligations.HeldContextIsAKeySchedule := by
  intro s t hi hk h
  rcases step_cases h with
    ⟨_, rfl⟩ | ⟨_, hm⟩ | ⟨_, _, rfl⟩ | ⟨_, p, r, u, rfl, he⟩ | ⟨_, cw, rest, u, _, rfl, he⟩
  · exact (resetWith_keyInv s.rMax).agents _ _ _
  · exact microStep_keyInv (hi.agents _ _ _) (hk.agents _ _ _) hm
  · exact hk.agents _ _ _
  · exact (he.keyInv (hk.agents p _ _)).agents _ _ _
  · exact (he.keyInv (hi.agents rest _ _) (hk.agents rest _ _)).agents _ _ _

end Sys2Proof.Machine
end

section
/-! PROOFS. What reset leaves unspecified is never read before it is written (10_state.md R46): two states that agree answer
every access alike and step to states that agree. -/

namespace Sys2Proof.Machine

/-! What agreeing states share. -/

section
variable {s t : State}

/-- Whatever does not depend on the unspecified registers and tables is equal in agreeing states. -/
theorem State.Agree.eq_of_specified {α : Type} (h : s.Agree t) (f : State → α) (hf : ∀ x, f x.specifiedPart = f x) :
    f s = f t := by rw [← hf s, ← hf t, h.specified]

theorem State.Agree.phase_eq (h : s.Agree t) : s.phase = t.phase := h.eq_of_specified State.phase fun _ => rfl

theorem State.Agree.busy_eq (h : s.Agree t) : s.busy = t.busy := h.eq_of_specified State.busy fun _ => rfl

theorem State.Agree.valid_eq (h : s.Agree t) : s.valid = t.valid := h.eq_of_specified State.valid fun _ => rfl

theorem State.Agree.ctxW_eq (h : s.Agree t) : s.ctxW = t.ctxW := h.eq_of_specified State.ctxW fun _ => rfl

theorem State.Agree.ctxR_eq (h : s.Agree t) : s.ctxR = t.ctxR := h.eq_of_specified State.ctxR fun _ => rfl

theorem State.Agree.program_eq (h : s.Agree t) : s.program = t.program := h.eq_of_specified State.program fun _ => rfl

theorem State.Agree.refl (s : State) : s.Agree s where
  specified := rfl
  context _ _ _ := rfl
  width _ := rfl
  build _ := ⟨rfl, rfl, rfl, rfl, fun _ _ => rfl⟩
  ksInit _ _ _ := rfl
  ksMix _ := ⟨fun _ _ => rfl, rfl, rfl⟩
  encrypt _ := rfl
  rounds _ := rfl
  words _ _ := ⟨rfl, rfl⟩

/-- In idle states nothing but the context's table lies outside the specified part and is read. -/
theorem State.Agree.of_idle (hp : s.phase = .idle) (specified : s.specifiedPart = t.specifiedPart)
    (context : s.valid = true → s.sTab.agree (tableLength s.ctxR.toNat) t.sTab) : s.Agree t := by
  constructor
  case specified => exact specified
  case context => exact context
  all_goals simp [hp]

/-- The window reads the table of a held context only (10_state.md R33). -/
theorem State.Agree.sData_eq (h : s.Agree t) : s.sData = t.sData := by
  have index : s.sIndex = t.sIndex := h.eq_of_specified State.sIndex fun _ => rfl
  simp only [State.sData, ← h.valid_eq, ← index, ← h.ctxR_eq]
  split
  case isTrue inTable => exact h.context inTable.1 _ inTable.2
  case isFalse => rfl

theorem State.Agree.readReg_eq (h : s.Agree t) (r : Reg) : readReg r s = readReg r t := by
  cases r with
  | sData => exact h.sData_eq
  | id | cap | cfg | cmd | status | ctx | aIn | bIn | aOut | bOut | sIndex | key =>
    exact h.eq_of_specified (readReg _) fun _ => rfl

theorem State.Agree.busReadResult_eq (h : s.Agree t) (off : BitVec 12) (size : Nat) :
    busReadResult off size s = busReadResult off size t := busReadResult_congr h.readReg_eq off size

end

/-- Both steps go on, to states that agree. -/
def Alike (a b : Result) : Prop := ∃ s t, a = .next s ∧ b = .next t ∧ s.Agree t

theorem respond_agree {s t : State} (h : s.Agree t) (b : BusResult) : (s.respond b).Agree (t.respond b) :=
  { h with specified := congrArg (State.respond b) h.specified }

theorem Alike.respond {x y : Result} (h : Alike x y) (b : BusResult) :
    Alike (mapNext (State.respond b) x) (mapNext (State.respond b) y) := by
  obtain ⟨s, t, rfl, rfl, agree⟩ := h
  exact ⟨_, _, rfl, rfl, respond_agree agree b⟩

/-! Register writes. -/

section
variable {s t : State} (h : s.Agree t)
include h

theorem writeReg_alike {r : Reg} (hr : r ≠ .cmd) (d : Word) : Alike (writeReg r d s) (writeReg r d t) := by
  cases r with
  | cfg => exact ⟨_, _, rfl, rfl, { h with specified := congrArg (State.writeCfg d) h.specified }⟩
  | cmd => exact absurd rfl hr
  | aIn => exact ⟨_, _, rfl, rfl, { h with specified := congrArg (fun x : State => { x with aIn := d }) h.specified }⟩
  | bIn => exact ⟨_, _, rfl, rfl, { h with specified := congrArg (fun x : State => { x with bIn := d }) h.specified }⟩
  | sIndex =>
    exact ⟨_, _, rfl, rfl,
      { h with specified := congrArg (fun x : State => { x with sIndex := d.extractLsb' 0 32 }) h.specified }⟩
  | key q =>
    exact ⟨_, _, rfl, rfl,
      { h with specified := congrArg (fun x : State => { x with key := x.key.write q.val d }) h.specified }⟩
  | id | cap | status | ctx | aOut | bOut | sData => exact ⟨s, t, rfl, rfl, h⟩

/-! Command words. -/

theorem recordError_agree (c : ErrCode) (op : BitVec 4) : (s.recordError c op).Agree (t.recordError c op) :=
  { h with specified := congrArg (State.recordError c op) h.specified }

theorem dropCommand_agree : s.dropCommand.Agree t.dropCommand :=
  { h with specified := congrArg State.dropCommand h.specified }

/-- BUILD reads CFG and KEY, and writes what its micro-steps read (41_key_schedule.md R131). -/
theorem startBuild_agree {w : Width} (hs : s.lArr.wf = true) (ht : t.lArr.wf = true) (hl : s.buildLegal w) :
    (startBuild w s).Agree (startBuild w t) := by
  have key : s.key = t.key := h.eq_of_specified State.key fun _ => rfl
  have cfgB : s.cfgB = t.cfgB := h.eq_of_specified State.cfgB fun _ => rfl
  have cfgR : s.cfgR = t.cfgR := h.eq_of_specified State.cfgR fun _ => rfl
  refine {
    specified := congrArg (fun x : State => { x.acceptStatus 1 with valid := false, ctxW := 0, ctxR := 0, phase := .ksInit })
      h.specified
    context := nofun, width := fun _ => h.eq_of_specified State.cfgW fun _ => rfl
    build := fun _ => ⟨cfgR, ?_, ?_, rfl, fun j hj => ?_⟩
    ksInit := fun _ => nofun, ksMix := nofun
    encrypt := fun e => e.elim nofun nofun, rounds := fun e => e.elim nofun nofun, words := fun _ e => absurd rfl e }
  · exact congrArg (fun r : BitVec 32 => BitVec.ofNat 32 (tableLength r.toNat)) cfgR
  · exact congrArg (fun b : BitVec 16 => BitVec.ofNat 8 (wordCount w b.toNat)) cfgB
  · rw [startBuild_opc_toNat hl] at hj
    rw [startBuild_lArr_read w hs hj, startBuild_lArr_read w ht (cfgB ▸ hj), key, cfgB]

/-- A block command reads the context and the inputs, and writes what its micro-steps read (42_block_cipher.md R153, R157). -/
theorem latchBlock_agree (op : BitVec 4) {p : Phase} (hp : p ≠ .ksInit ∧ p ≠ .ksMix) {k k' : BitVec 32}
    (hk : p = .encRound ∨ p = .decRound → k = k') :
    ({ latchBlock op s with k := k, phase := p } : State).Agree { latchBlock op t with k := k', phase := p } where
  specified := congrArg (fun x : State => { x.acceptStatus op with phase := p }) h.specified
  context := h.context
  width _ := h.ctxW_eq
  build e := e.elim (fun e => absurd e hp.1) fun e => absurd e hp.2
  ksInit e := absurd e hp.1
  ksMix e := absurd e hp.2
  encrypt _ := h.ctxR_eq
  rounds := hk
  words _ _ := ⟨h.eq_of_specified (fun x => lowBits x.ctxW.toNat x.aIn) fun _ => rfl,
    h.eq_of_specified (fun x => lowBits x.ctxW.toNat x.bIn) fun _ => rfl⟩

theorem acceptClear_agree (hb : s.busy = false) : (acceptClear s).Agree (acceptClear t) :=
  .of_idle (busy_eq_false.1 hb) (congrArg acceptClear h.specified) nofun

theorem build_alike (hs : s.lArr.wf = true) (ht : t.lArr.wf = true) (hb : s.busy = false) :
    Alike (exec .build s) (exec .build t) := by
  have hb' : t.busy = false := h.busy_eq ▸ hb
  have cfgW : s.cfgW = t.cfgW := h.eq_of_specified State.cfgW fun _ => rfl
  have cfgB : s.cfgB = t.cfgB := h.eq_of_specified State.cfgB fun _ => rfl
  have cfgR : s.cfgR = t.cfgR := h.eq_of_specified State.cfgR fun _ => rfl
  have rMax : s.rMax = t.rMax := h.eq_of_specified State.rMax fun _ => rfl
  cases hw : Width.ofField s.cfgW with
  | none => exact ⟨_, _, exec_build_of_width hb hw, exec_build_of_width hb' (cfgW ▸ hw), recordError_agree h _ _⟩
  | some w =>
    rcases lt_or_ge Config.keyMax s.cfgB.toNat with hB | hB
    · exact ⟨_, _, exec_build_of_keyTooLong hb hw hB, exec_build_of_keyTooLong hb' (cfgW ▸ hw) (cfgB ▸ hB),
        recordError_agree h _ _⟩
    rcases lt_or_ge s.rMax.toNat s.cfgR.toNat with hR | hR
    · exact ⟨_, _, exec_build_of_rounds hb hw hB hR,
        exec_build_of_rounds hb' (cfgW ▸ hw) (cfgB ▸ hB) (rMax ▸ cfgR ▸ hR), recordError_agree h _ _⟩
    · exact ⟨_, _, exec_build_of_legal hb ⟨hw, hB, hR⟩,
        exec_build_of_legal hb' ⟨cfgW ▸ hw, cfgB ▸ hB, rMax ▸ cfgR ▸ hR⟩, startBuild_agree h hs ht ⟨hw, hB, hR⟩⟩

theorem exec_alike (hs : s.lArr.wf = true) (ht : t.lArr.wf = true) (i : Instr) : Alike (exec i s) (exec i t) := by
  by_cases hnop : i = .nop
  · subst hnop
    exact ⟨s, t, rfl, rfl, h⟩
  cases hb : s.busy with
  | true => exact ⟨_, _, exec_of_busy hnop hb, exec_of_busy hnop (h.busy_eq ▸ hb), dropCommand_agree h⟩
  | false =>
    have hb' : t.busy = false := h.busy_eq ▸ hb
    cases i with
    | nop => exact absurd rfl hnop
    | build => exact build_alike h hs ht hb
    | encrypt =>
      cases hv : s.valid with
      | false =>
        exact ⟨_, _, exec_encrypt_of_invalid hb hv, exec_encrypt_of_invalid hb' (h.valid_eq ▸ hv), recordError_agree h _ _⟩
      | true =>
        exact ⟨_, _, exec_encrypt_of_valid hb hv, exec_encrypt_of_valid hb' (h.valid_eq ▸ hv),
          latchBlock_agree h 2 (p := .encPre) ⟨nofun, nofun⟩ (fun e => e.elim nofun nofun)⟩
    | decrypt =>
      cases hv : s.valid with
      | false =>
        exact ⟨_, _, exec_decrypt_of_invalid hb hv, exec_decrypt_of_invalid hb' (h.valid_eq ▸ hv), recordError_agree h _ _⟩
      | true =>
        refine ⟨_, _, exec_decrypt_of_valid hb hv, exec_decrypt_of_valid hb' (h.valid_eq ▸ hv), ?_⟩
        rw [← h.ctxR_eq]
        refine latchBlock_agree h 3 ?_ fun _ => rfl
        constructor <;> split <;> nofun
    | clear => exact ⟨_, _, exec_clear_of_idle hb, exec_clear_of_idle hb', acceptClear_agree h hb⟩

theorem acceptWord_alike (hs : s.lArr.wf = true) (ht : t.lArr.wf = true) (cw : Word) :
    Alike (acceptWord cw s) (acceptWord cw t) := by
  cases hd : decode cw with
  | ok i =>
    rw [acceptWord_of_ok hd, acceptWord_of_ok hd]
    exact exec_alike h hs ht i
  | error e =>
    refine ⟨_, _, acceptWord_of_error hd s, acceptWord_of_error hd t, ?_⟩
    cases hb : s.busy with
    | true =>
      rw [illegalCommand, whenIdle_of_busy hb, whenIdle_of_busy (h.busy_eq ▸ hb)]
      exact dropCommand_agree h
    | false =>
      rw [illegalCommand, whenIdle_of_idle hb, whenIdle_of_idle (h.busy_eq ▸ hb)]
      exact recordError_agree h _ _

/-! The Host's turn. -/

theorem busWrite_alike (hs : s.lArr.wf = true) (ht : t.lArr.wf = true) (off : BitVec 12) (size : Nat) (d : Word) :
    Alike (busWrite off size d s) (busWrite off size d t) := by
  unfold busWrite
  split
  case isFalse => exact ⟨_, _, rfl, rfl, respond_agree h _⟩
  case isTrue =>
    cases Reg.ofOffset off with
    | none => exact ⟨_, _, rfl, rfl, respond_agree h _⟩
    | some r =>
      have writes : Alike (writeReg r d s) (writeReg r d t) := by
        by_cases hr : r = .cmd
        · subst hr
          exact acceptWord_alike h hs ht d
        · exact writeReg_alike h hr d
      exact writes.respond _

theorem program_agree (p : List HostOp) : ({ s with program := p } : State).Agree { t with program := p } :=
  { h with specified := congrArg (fun x : State => { x with program := p }) h.specified }

theorem schedule_agree (sch : List Turn) : ({ s with schedule := sch } : State).Agree { t with schedule := sch } :=
  { h with specified := congrArg (fun x : State => { x with schedule := sch }) h.specified }

theorem busRead_agree (off : BitVec 12) (size : Nat) : (busRead off size s).Agree (busRead off size t) := by
  rw [busRead, busRead, ← h.busReadResult_eq]
  exact respond_agree h _

theorem hostStep_alike (hs : s.lArr.wf = true) (ht : t.lArr.wf = true) : Alike (hostStep s) (hostStep t) := by
  unfold hostStep
  rw [← h.program_eq, ← h.busReadResult_eq]
  cases s.program with
  | nil => exact ⟨s, t, rfl, rfl, h⟩
  | cons op rest =>
    have later := program_agree h rest
    cases op with
    | read off size => exact ⟨_, _, rfl, rfl, busRead_agree later off size⟩
    | write off size d => exact busWrite_alike later hs ht off size d
    | poll =>
      refine ⟨_, _, rfl, rfl, ?_⟩
      split
      · exact busRead_agree h _ _
      · exact busRead_agree later _ _

end

end Sys2Proof.Machine
end

section
/-! PROOFS. The Engine's turn in agreeing states (10_state.md R46): each micro-step reads what an earlier one, or the
acceptance of its command, has written. -/

namespace Sys2Proof.Machine

/-- A write of the same entry keeps tables equal, and makes that entry equal. -/
theorem Memory.agree_write {m m' : Memory} (hm : m.wf = true) (hm' : m'.wf = true) {n a : Nat} (v : Word)
    (h : ∀ i, i < n → i ≠ a → m.read i = m'.read i) : (m.write a v).agree n (m'.write a v) := by
  intro i hi
  rw [Memory.read_write hm, Memory.read_write hm']
  split
  case isTrue => rfl
  case isFalse ne => exact h i hi ne

/-! The phases of a BUILD. -/

/-- The completed BUILD makes the latched width, round count and table the context (41_key_schedule.md R136). -/
theorem finishBuild_agree {s t : State} (h : s.Agree t) (hp : s.phase = .ksMix)
    (hopt : s.opt.toNat = tableLength s.opr.toNat) : (finishBuild s).Agree (finishBuild t) := by
  obtain ⟨hopr, _⟩ := h.build (.inr hp)
  have width := h.width (by simp [hp])
  refine .of_idle rfl ?_ fun _ => hopt ▸ (h.ksMix hp).1
  change { s.specifiedPart with ctxW := s.opw, ctxR := s.opr, valid := true, done := true, phase := .idle } =
    { t.specifiedPart with ctxW := t.opw, ctxR := t.opr, valid := true, done := true, phase := .idle }
  rw [h.specified, width, hopr]

section
variable {s t : State} (hs : s.Inv) (ht : t.Inv) (h : s.Agree t)
include hs ht h

/-- Entry K comes from the entry before it, which has been written (41_key_schedule.md R133). -/
theorem ksInitNext_sTab_agree (hp : s.phase = .ksInit) (w : Width) :
    (ksInitNext w s).sTab.agree (s.k.toNat + 1) (ksInitNext w t).sTab := by
  obtain ⟨_, _, _, hk, _⟩ := h.build (.inl hp)
  obtain ⟨hsS, _⟩ := hs.tables
  obtain ⟨htS, _⟩ := ht.tables
  have filled := h.ksInit hp
  have value : ksInitValue w s = ksInitValue w t := by
    unfold ksInitValue
    rw [← hk]
    split
    case isTrue => rfl
    case isFalse hpos =>
      have pos : s.k.toNat ≠ 0 := mt (BitVec.eq_of_toNat_eq (y := 0)) hpos
      rw [filled _ (by omega)]
  simp only [ksInitNext, ← value, ← hk]
  exact Memory.agree_write hsS htS _ fun i hi ne => filled i (by omega)

theorem ksInit_alike (hp : s.phase = .ksInit) : Alike (microStep s) (microStep t) := by
  obtain ⟨hl, hlt, _⟩ := hs.ksInit hp
  obtain ⟨hl', hlt', _⟩ := ht.ksInit (h.phase_eq ▸ hp)
  have ⟨_, _, _, _, _, noContext, _⟩ := hl
  obtain ⟨w, hw⟩ := hs.width (by simp [hp])
  have width := h.width (by simp [hp])
  obtain ⟨hopr, hopt, hopc, hk, keyed⟩ := h.build (.inl hp)
  have table := ksInitNext_sTab_agree hs ht h hp w
  refine ⟨_, _, microStep_ksInit hp hw hl.sized hlt,
    microStep_ksInit (h.phase_eq ▸ hp) (width ▸ hw) hl'.sized hlt', ?_⟩
  rw [← hk, ← hopt]
  split
  case isTrue last =>
    exact {
      specified := congrArg (fun x : State => { x with phase := .ksMix }) h.specified
      context := fun held => absurd (noContext.symm.trans held) nofun, width := fun _ => width
      build := fun _ => ⟨hopr, hopt, hopc, rfl, keyed⟩, ksInit := nofun, ksMix := fun _ => ⟨last ▸ table, rfl, rfl⟩
      encrypt := fun e => e.elim nofun nofun, rounds := fun e => e.elim nofun nofun, words := fun _ _ => ⟨rfl, rfl⟩ }
  case isFalse =>
    have next : (s.k + 1).toNat = s.k.toNat + 1 := toNat_add_one hlt s.opt.isLt
    have same : (ksInitNext w s).phase = .ksInit := hp
    constructor
    case specified => exact h.specified
    case context => exact fun held => absurd (noContext.symm.trans held) nofun
    case width => exact fun _ => width
    case build => exact fun _ => ⟨hopr, hopt, hopc, congrArg (· + 1) hk, keyed⟩
    case ksInit => exact fun _ => next ▸ table
    all_goals simp [same]

/-- A pass through the mixing loop reads entries of the tables below t and c (41_key_schedule.md R134). -/
theorem ksMixNext_agree (hp : s.phase = .ksMix) (w : Width) : (ksMixNext w s).Agree (ksMixNext w t) := by
  obtain ⟨hl, _, hwi, hwj, _⟩ := hs.ksMix hp
  have ⟨_, _, _, _, _, noContext, _⟩ := hl
  obtain ⟨hsS, hsL, _⟩ := hs.tables
  obtain ⟨htS, htL, _⟩ := ht.tables
  obtain ⟨hopr, hopt, hopc, hk, keyed⟩ := h.build (.inr hp)
  obtain ⟨table, wi, wj⟩ := h.ksMix hp
  obtain ⟨wa, wb⟩ := h.words (by simp [hp]) (by simp [hp])
  have newA : (ksMixNext w s).wa = (ksMixNext w t).wa := by
    simp only [ksMixNext, ← wa, ← wb, ← wi, table _ hwi]
  have newB : (ksMixNext w s).wb = (ksMixNext w t).wb := by
    simp only [ksMixNext, ← wa, ← wb, ← wi, ← wj, table _ hwi, keyed _ hwj]
  have same : (ksMixNext w s).phase = .ksMix := hp
  constructor
  case specified => exact h.specified
  case context => exact fun held => absurd (noContext.symm.trans held) nofun
  case width => exact fun _ => h.width (by simp [hp])
  case build =>
    refine fun _ => ⟨hopr, hopt, hopc, congrArg (· + 1) hk, ?_⟩
    change (s.lArr.write s.wj.toNat (ksMixNext w s).wb).agree s.opc.toNat (t.lArr.write t.wj.toNat (ksMixNext w t).wb)
    rw [← newB, ← wj]
    exact Memory.agree_write hsL htL _ fun j hj _ => keyed j hj
  case ksMix =>
    refine fun _ => ⟨?_, ?_, ?_⟩
    · change (s.sTab.write s.wi.toNat (ksMixNext w s).wa).agree s.opt.toNat (t.sTab.write t.wi.toNat (ksMixNext w t).wa)
      rw [← newA, ← wi]
      exact Memory.agree_write hsS htS _ fun i hi _ => table i hi
    · simp only [ksMixNext, ← wi, ← hopt]
    · simp only [ksMixNext, ← wj, ← hopc]
  case words => exact fun _ _ => ⟨newA, newB⟩
  all_goals simp [same]

theorem ksMix_alike (hp : s.phase = .ksMix) : Alike (microStep s) (microStep t) := by
  obtain ⟨hl, hlt, hwi, hwj, _⟩ := hs.ksMix hp
  obtain ⟨hl', hlt', hwi', hwj', _⟩ := ht.ksMix (h.phase_eq ▸ hp)
  obtain ⟨w, hw⟩ := hs.width (by simp [hp])
  obtain ⟨_, hopt, hopc, hk, _⟩ := h.build (.inr hp)
  have next := ksMixNext_agree hs ht h hp w
  refine ⟨_, _, microStep_ksMix hp hw hl.sized hlt hwi hwj,
    microStep_ksMix (h.phase_eq ▸ hp) (h.width (by simp [hp]) ▸ hw) hl'.sized hlt' hwi' hwj', ?_⟩
  rw [← hk, ← hopt, ← hopc]
  split
  case isTrue => exact finishBuild_agree next hp hl.sized.opt_eq
  case isFalse => exact next

end

/-! The phases of a block command. -/

section
variable {s t : State} (h : s.Agree t) (hb : s.phase ≠ .idle) (x : Word × Word)
include h hb

/-- Completion shows the words cut to the latched width (42_block_cipher.md R160). -/
theorem finishBlock_agree (k k' : BitVec 32) :
    (finishBlock { s.setWords x with k := k }).Agree (finishBlock { t.setWords x with k := k' }) := by
  refine .of_idle rfl ?_ h.context
  change { s.specifiedPart with
      aOut := lowBits s.opw.toNat x.1, bOut := lowBits s.opw.toNat x.2, done := true, phase := .idle } =
    { t.specifiedPart with
      aOut := lowBits t.opw.toNat x.1, bOut := lowBits t.opw.toNat x.2, done := true, phase := .idle }
  rw [h.specified, h.width hb]

/-- A round leaves its words, and for the next one the counter K (42_block_cipher.md R154, R155, R158). -/
theorem setWords_agree {p p' : Phase} (same : p = p') (hp : p = .encRound ∨ p = .decRound ∨ p = .decPost)
    (rounds : p = .encRound → s.opr = t.opr) {k k' : BitVec 32} (hk : p ≠ .decPost → k = k') :
    ({ s.setWords x with k := k, phase := p } : State).Agree { t.setWords x with k := k', phase := p' } := by
  subst same
  have notBuild : p ≠ .ksInit ∧ p ≠ .ksMix ∧ p ≠ .encPre := by
    rcases hp with rfl | rfl | rfl <;> exact ⟨nofun, nofun, nofun⟩
  obtain ⟨notInit, notMix, notPre⟩ := notBuild
  exact {
    specified := congrArg (fun y : State => { y with phase := p }) h.specified
    context := h.context, width := fun _ => h.width hb
    build := fun e => e.elim (absurd · notInit) (absurd · notMix), ksInit := fun e => absurd e notInit
    ksMix := fun e => absurd e notMix, encrypt := fun e => e.elim (absurd · notPre) rounds
    rounds := fun e => hk (by rintro rfl; exact e.elim nofun nofun), words := fun _ _ => ⟨rfl, rfl⟩ }

end

section
variable {s t : State} (hs : s.Inv) (ht : t.Inv) (h : s.Agree t)

/-- The entries a block command reads are those of the held table (42_block_cipher.md R150, R151). -/
theorem State.Agree.entry_eq (h : s.Agree t) (hl : s.blockLatched) {i : Nat} (hi : i < 2 * s.opr.toNat + 2) :
    s.sTab.read i = t.sTab.read i := by
  obtain ⟨hv, _, hr, _⟩ := hl
  exact h.context hv i (hr ▸ hi)

include hs h

theorem encPre_alike (hp : s.phase = .encPre) : Alike (microStep s) (microStep t) := by
  have hb : s.phase ≠ .idle := by simp [hp]
  obtain ⟨hl, _⟩ := hs.encPre hp
  obtain ⟨w, hw⟩ := hs.width hb
  obtain ⟨wa, wb⟩ := h.words hb (by simp [hp])
  have opr := h.encrypt (.inl hp)
  have block : whiten w s.sTab.read (s.wa, s.wb) = whiten w t.sTab.read (t.wa, t.wb) := by
    simp only [whiten, ← wa, ← wb, h.entry_eq hl (show 0 < _ by omega), h.entry_eq hl (show 1 < _ by omega)]
  refine ⟨_, _, microStep_encPre hw hp, microStep_encPre (h.width hb ▸ hw) (h.phase_eq ▸ hp), ?_⟩
  rw [← opr, ← block]
  generalize whiten w s.sTab.read (s.wa, s.wb) = x
  split
  case isTrue => exact finishBlock_agree h hb x 1 1
  case isFalse => exact setWords_agree h hb x rfl (.inl rfl) (fun _ => opr) fun _ => rfl

include ht

theorem encRound_alike (hp : s.phase = .encRound) : Alike (microStep s) (microStep t) := by
  have hb : s.phase ≠ .idle := by simp [hp]
  obtain ⟨hl, _, _, hle⟩ := hs.encRound hp
  obtain ⟨w, hw⟩ := hs.width hb
  obtain ⟨wa, wb⟩ := h.words hb (by simp [hp])
  have opr := h.encrypt (.inr hp)
  have hk := h.rounds (.inl hp)
  have block : encryptRound w s.sTab.read s.k.toNat (s.wa, s.wb) =
      encryptRound w t.sTab.read t.k.toNat (t.wa, t.wb) := by
    simp only [encryptRound, ← wa, ← wb, ← hk, h.entry_eq hl (show 2 * s.k.toNat < _ by omega),
      h.entry_eq hl (show 2 * s.k.toNat + 1 < _ by omega)]
  refine ⟨_, _, microStep_encRound hw hs hp, microStep_encRound (h.width hb ▸ hw) ht (h.phase_eq ▸ hp), ?_⟩
  rw [← block, ← opr, ← hk]
  generalize encryptRound w s.sTab.read s.k.toNat (s.wa, s.wb) = x
  split
  case isTrue => exact finishBlock_agree h hb x s.k t.k
  case isFalse => exact setWords_agree h hb x h.phase_eq (.inl hp) (fun _ => opr) fun _ => rfl

theorem decRound_alike (hp : s.phase = .decRound) : Alike (microStep s) (microStep t) := by
  have hb : s.phase ≠ .idle := by simp [hp]
  obtain ⟨hl, _, _, hle⟩ := hs.decRound hp
  obtain ⟨w, hw⟩ := hs.width hb
  obtain ⟨wa, wb⟩ := h.words hb (by simp [hp])
  have hk := h.rounds (.inr hp)
  have block : decryptRound w s.sTab.read s.k.toNat (s.wa, s.wb) =
      decryptRound w t.sTab.read t.k.toNat (t.wa, t.wb) := by
    simp only [decryptRound, ← wa, ← wb, ← hk, h.entry_eq hl (show 2 * s.k.toNat < _ by omega),
      h.entry_eq hl (show 2 * s.k.toNat + 1 < _ by omega)]
  refine ⟨_, _, microStep_decRound hw hs hp, microStep_decRound (h.width hb ▸ hw) ht (h.phase_eq ▸ hp), ?_⟩
  rw [← block, ← hk]
  generalize decryptRound w s.sTab.read s.k.toNat (s.wa, s.wb) = x
  split
  case isTrue =>
    exact setWords_agree h hb x rfl (.inr (.inr rfl)) nofun (k := s.k) (k' := t.k) fun ne => absurd rfl ne
  case isFalse =>
    exact setWords_agree h hb x h.phase_eq (.inr (.inl hp)) (fun e => absurd (hp.symm.trans e) nofun) fun _ => rfl

omit ht

theorem decPost_alike (hp : s.phase = .decPost) : Alike (microStep s) (microStep t) := by
  have hb : s.phase ≠ .idle := by simp [hp]
  obtain ⟨hl, _⟩ := hs.decPost hp
  obtain ⟨w, hw⟩ := hs.width hb
  obtain ⟨wa, wb⟩ := h.words hb (by simp [hp])
  have block : unwhiten w s.sTab.read (s.wa, s.wb) = unwhiten w t.sTab.read (t.wa, t.wb) := by
    simp only [unwhiten, ← wa, ← wb, h.entry_eq hl (show 0 < _ by omega), h.entry_eq hl (show 1 < _ by omega)]
  refine ⟨_, _, microStep_decPost hw hp, microStep_decPost (h.width hb ▸ hw) (h.phase_eq ▸ hp), ?_⟩
  rw [← block]
  generalize unwhiten w s.sTab.read (s.wa, s.wb) = x
  exact finishBlock_agree h hb x s.k t.k

end

/-! Every step. -/

section
variable {s t : State} (hs : s.Inv) (ht : t.Inv) (h : s.Agree t)
include hs ht h

theorem microStep_alike : Alike (microStep s) (microStep t) := by
  cases hp : s.phase with
  | idle => exact ⟨s, t, microStep_of_idle hp, microStep_of_idle (h.phase_eq ▸ hp), h⟩
  | ksInit => exact ksInit_alike hs ht h hp
  | ksMix => exact ksMix_alike hs ht h hp
  | encPre => exact encPre_alike hs h hp
  | encRound => exact encRound_alike hs ht h hp
  | decRound => exact decRound_alike hs ht h hp
  | decPost => exact decPost_alike hs h hp

theorem step_alike : Alike (step s) (step t) := by
  have turn : s.turn = t.turn := h.eq_of_specified State.turn fun _ => rfl
  have schedule : s.schedule = t.schedule := h.eq_of_specified State.schedule fun _ => rfl
  have later := schedule_agree h s.schedule.tail
  obtain ⟨_, hsL, _⟩ := hs.tables
  obtain ⟨_, htL, _⟩ := ht.tables
  rw [step_turn, step_turn, ← turn, ← schedule]
  cases s.turn with
  | host => exact hostStep_alike later hsL htL
  | engine => exact microStep_alike (hs.agents _ _ _) (ht.agents _ _ _) later
  | reset =>
    have same := later.eq_of_specified resetInput fun _ => rfl
    exact ⟨_, _, rfl, rfl, same ▸ .refl _⟩

end

/-- Settles O58: a step of two states that agree, two states after reset, and a read. -/
theorem unspecifiedStateIsNeverRead : Obligations.UnspecifiedStateIsNeverRead :=
  ⟨fun _ _ hs ht h => step_alike hs ht h,
    fun _ _ hp hv specified => .of_idle hp specified fun held => absurd (hv.symm.trans held) nofun,
    fun _ _ off size h => h.busReadResult_eq off size⟩

end Sys2Proof.Machine
end
